-- ==== Sys2Proof/Word.lean ====
section
/-! DEFINITION. The words of the block: what crosses the bus and what a framebuffer cell holds. -/

namespace Sys2Proof

/-- One bus word, `BUS_W = 16` bits (20_memory.md R61, R65). -/
abbrev Word := BitVec 16

/-- One byte: a command, a parameter, a colour lane. -/
abbrev Byte := BitVec 8

/-- One framebuffer cell, 32 bits (10_state.md R45). -/
abbrev Cell := BitVec 32

/-- One pixel of a presented surface, 24 bits (45_framebuffer_memory.md R239). -/
abbrev Colour := BitVec 24

end Sys2Proof
end

