-- ==== Sys2Proof/Config.lean ====
section
/-! DEFINITION. What is fixed for one instance of the block (the configuration), and the free values. -/

namespace Sys2Proof

/-- Data writes per pixel in `WRITE_MEM`: 1 is the decided value, 2 the alternative (00_scope.md R7, decision D2). -/
inductive PixelBeats where
  | one
  | two
deriving DecidableEq, Repr

/-- The configuration surface (00_scope.md R6: `DISPLAY_ID`, `W`, `H`, `ROTATE`) and the parameters the spec leaves
to the model (R7: `OFF_CMD`, `OFF_DATA`, `ADDR_W`, `PIXEL_BEATS`). No operation changes any of them (10_state.md R37). -/
structure Config where
  displayId  : BitVec 24
  W          : Nat
  H          : Nat
  rotate     : Bool
  offCmd     : Nat
  offData    : Nat
  addrW      : Nat
  pixelBeats : PixelBeats
deriving DecidableEq, Repr

/-- The constraints the spec puts on the configuration: `1 <= W, H <= 65536` (R6, decision D35) and
`OFF_CMD < OFF_DATA < 2^ADDR_W` (R7, decision D7). -/
def Config.wf (c : Config) : Bool :=
  decide (1 ≤ c.W ∧ c.W ≤ 65536) && decide (1 ≤ c.H ∧ c.H ≤ 65536) &&
    decide (c.offCmd < c.offData ∧ c.offData < 2 ^ c.addrW)

/-- The reference configuration of 95_test_vectors.md (`W = 4`, `H = 3`, `DISPLAY_ID = 0x858552`, `ROTATE = 0`,
`PIXEL_BEATS = 1`). The three offset parameters are open in the spec and the numbers here are the model's.
DESIGN CHOICE (log 3); unsafe for a claim about `State.reset` that rests on one of these values. -/
def Config.reference : Config where
  displayId  := 0x858552#24
  W          := 4
  H          := 3
  rotate     := false
  offCmd     := 0
  offData    := 1
  addrW      := 8
  pixelBeats := .one

/-- FREE VALUE `RD_RESP`: the byte the `n`-th draw gives, any value under no law (41_protocol_fsm.md R176, U3;
log 4). -/
opaque Config.rdResp : Nat → Byte

/-- FREE VALUE `FB_INIT`: what cell `i` holds after the `n`-th power-on, any value per cell (10_state.md R45, U4;
log 5). -/
opaque Config.fbInit : (n i : Nat) → Cell

end Sys2Proof
end

