-- ==== Sys2Proof/Syntax.lean ====
section
/-! DEFINITION. What can be presented to the block (operations), the protocol state that selects the data-phase
instructions, and `Instr`, one constructor per row of spec/opcode_table.json. -/

namespace Sys2Proof

/-- The eight finite read sequences, in the order of 10_state.md R22. -/
inductive ReadSeq where
  | rddid | rddst | rddpm | rddmadctl | rddcolmod | rddim | rddsm | rddsdr
deriving DecidableEq, Repr

/-- Which of the four accesses of a sequence comes next (`..._0` to `..._3`). -/
inductive SubState where
  | s0 | s1 | s2 | s3
deriving DecidableEq, Repr

/-- `pstate`, "the current pending multi-byte operation": 1 + 8*4 + 1 + 4 + 4 + 1 + 1 + 1 + 1 = 46 values
(10_state.md R22). -/
inductive PState where
  | idle
  | read (seq : ReadSeq) (k : SubState)
  | gamset0
  | caset (k : SubState)
  | raset (k : SubState)
  | madctl0
  | colmod0
  | writeMem
  | readMem
deriving DecidableEq, Repr

/-- `rd_sub`, the "internal 0/1/2 sub-cursor" of `READ_MEM`; 3 cannot be constructed (10_state.md R23, U10). -/
inductive RdSub where
  | r0 | r1 | r2
deriving DecidableEq, Repr

/-- What an agent presents: a bus triple `(off, we, wdata)` (30_encoding.md R90) or one of the three signals, which
have no encoding. `wdata` means nothing when `we` is false. -/
inductive Operation where
  | bus (off : Nat) (we : Bool) (wdata : Word)
  | extReset
  | powerOn
  | paint
deriving DecidableEq, Repr

/-- One constructor per row of spec/opcode_table.json. A data-phase row is selected by the protocol state, so the
constructor names the state; its operand is what the row's encoding keeps of `wdata` (30_encoding.md R107). -/
inductive Instr where
  -- commands, 30_encoding.md R92
  /-- `SWRESET`, R131. -/
  | swreset
  /-- `RDDID`, R133. -/
  | rddid
  /-- `RDDST`, R134. -/
  | rddst
  /-- `RDDPM`, R135. -/
  | rddpm
  /-- `RDDMADCTL`, R136. -/
  | rddmadctl
  /-- `RDDCOLMOD`, R137. -/
  | rddcolmod
  /-- `RDDIM`, R138. -/
  | rddim
  /-- `RDDSM`, R139. -/
  | rddsm
  /-- `RDDSDR`, R140. -/
  | rddsdr
  /-- `SLPIN`, R121. -/
  | slpin
  /-- `SLPOUT`, R122. -/
  | slpout
  /-- `INVOFF`, R123. -/
  | invoff
  /-- `INVON`, R124. -/
  | invon
  /-- `GAMSET`, R141. -/
  | gamset
  /-- `DISPOFF`, R125. -/
  | dispoff
  /-- `DISPON`, R126. -/
  | dispon
  /-- `CASET`, R142. -/
  | caset
  /-- `RASET`, R143. -/
  | raset
  /-- `RAMWR`, R144. -/
  | ramwr
  /-- `RAMRD`, R145. -/
  | ramrd
  /-- `TEOFF`, R127. -/
  | teoff
  /-- `TEON`, R128. -/
  | teon
  /-- `MADCTL`, R146. -/
  | madctl
  /-- `IDMOFF`, R129. -/
  | idmoff
  /-- `IDMON`, R130. -/
  | idmon
  /-- `COLMOD`, R147. -/
  | colmod
  /-- `UNKNOWN_CMD`, R148: any of the 230 other bytes. -/
  | unknownCmd (c : Byte)
  -- data writes, 41_protocol_fsm.md R160
  /-- `DW.CASET_0`, R165. -/
  | dwCaset0 (b : Byte)
  /-- `DW.CASET_1`, R166. -/
  | dwCaset1 (b : Byte)
  /-- `DW.CASET_2`, R167. -/
  | dwCaset2 (b : Byte)
  /-- `DW.CASET_3`, R168. -/
  | dwCaset3 (b : Byte)
  /-- `DW.RASET_0`, R169. -/
  | dwRaset0 (b : Byte)
  /-- `DW.RASET_1`, R170. -/
  | dwRaset1 (b : Byte)
  /-- `DW.RASET_2`, R171. -/
  | dwRaset2 (b : Byte)
  /-- `DW.RASET_3`, R172. -/
  | dwRaset3 (b : Byte)
  /-- `DW.MADCTL_0`, R173. -/
  | dwMadctl0 (b : Byte)
  /-- `DW.COLMOD_0`, R174. -/
  | dwColmod0 (b : Byte)
  /-- `DW.GAMSET_0`, R177. -/
  | dwGamset0 (b : Byte)
  /-- `DW.WRITE_MEM`, R180: one wire pixel, `PIXEL_BEATS = 1`. -/
  | dwWriteMem (p : Word)
  /-- `DW.WRITE_MEM.BEATS2`, R181: half a wire pixel, `PIXEL_BEATS = 2`. -/
  | dwWriteMemBeats2 (b : Byte)
  /-- `DW.IGNORED`, R162. -/
  | dwIgnored (w : Word)
  -- data reads, 41_protocol_fsm.md R161
  /-- `DR.RDDID_0`, R175. -/
  | drRddid0
  /-- `DR.RDDID_1`, R175. -/
  | drRddid1
  /-- `DR.RDDID_2`, R175. -/
  | drRddid2
  /-- `DR.RDDID_3`, R175. -/
  | drRddid3
  /-- `DR.RDDST_0`, R176. -/
  | drRddst0
  /-- `DR.RDDST_1`, R176. -/
  | drRddst1
  /-- `DR.RDDST_2`, R176. -/
  | drRddst2
  /-- `DR.RDDST_3`, R176. -/
  | drRddst3
  /-- `DR.RDDPM_0`, R176. -/
  | drRddpm0
  /-- `DR.RDDPM_1`, R176. -/
  | drRddpm1
  /-- `DR.RDDPM_2`, R176. -/
  | drRddpm2
  /-- `DR.RDDPM_3`, R176. -/
  | drRddpm3
  /-- `DR.RDDMADCTL_0`, R176. -/
  | drRddmadctl0
  /-- `DR.RDDMADCTL_1`, R176. -/
  | drRddmadctl1
  /-- `DR.RDDMADCTL_2`, R176. -/
  | drRddmadctl2
  /-- `DR.RDDMADCTL_3`, R176. -/
  | drRddmadctl3
  /-- `DR.RDDCOLMOD_0`, R176. -/
  | drRddcolmod0
  /-- `DR.RDDCOLMOD_1`, R176. -/
  | drRddcolmod1
  /-- `DR.RDDCOLMOD_2`, R176. -/
  | drRddcolmod2
  /-- `DR.RDDCOLMOD_3`, R176. -/
  | drRddcolmod3
  /-- `DR.RDDIM_0`, R176. -/
  | drRddim0
  /-- `DR.RDDIM_1`, R176. -/
  | drRddim1
  /-- `DR.RDDIM_2`, R176. -/
  | drRddim2
  /-- `DR.RDDIM_3`, R176. -/
  | drRddim3
  /-- `DR.RDDSM_0`, R176. -/
  | drRddsm0
  /-- `DR.RDDSM_1`, R176. -/
  | drRddsm1
  /-- `DR.RDDSM_2`, R176. -/
  | drRddsm2
  /-- `DR.RDDSM_3`, R176. -/
  | drRddsm3
  /-- `DR.RDDSDR_0`, R176. -/
  | drRddsdr0
  /-- `DR.RDDSDR_1`, R176. -/
  | drRddsdr1
  /-- `DR.RDDSDR_2`, R176. -/
  | drRddsdr2
  /-- `DR.RDDSDR_3`, R176. -/
  | drRddsdr3
  /-- `DR.READ_MEM.0`, R183. -/
  | drReadMem0
  /-- `DR.READ_MEM.1`, R184. -/
  | drReadMem1
  /-- `DR.READ_MEM.2`, R185. -/
  | drReadMem2
  /-- `DR.IGNORED`, R162. -/
  | drIgnored
  -- 46_display_ctrl_top.md
  /-- `UNMAPPED`, R253: any triple that is none of the above. -/
  | unmapped (off : Nat) (we : Bool) (wdata : Word)
  /-- `EXT_RESET`, R256. -/
  | extReset
  /-- `POWER_ON`, R255. -/
  | powerOn
  /-- `PAINT`, R258. -/
  | paint
deriving DecidableEq, Repr

end Sys2Proof
end

