-- ==== Sys2Proof/Machine/State.lean ====
section
/-! DEFINITION. The state of the block as plain data, the result record of an operation, the reasons a step can stop,
and the state after reset. -/

namespace Sys2Proof.Machine

/-- The diagnostic an operation emits (60_exceptions.md R271, R272). -/
inductive Diag where
  | none
  | unimplCmd (c : Byte)
  | unimplOffset (off : Nat)
  | dataIgnored (code : Nat)
deriving DecidableEq, Repr

/-- What `PAINT` hands to the presentation layer, row-major (45_framebuffer_memory.md R239). -/
structure Surface where
  width  : Nat
  height : Nat
  pixels : List Colour
deriving DecidableEq, Repr

/-- The result record `(rdata, diag, invalidate)` of one operation (00_scope.md R11), with the surface of a `PAINT`
(46_display_ctrl_top.md R258). -/
structure Result where
  rdata      : Word
  diag       : Diag
  invalidate : Bool
  surface    : Option Surface
deriving DecidableEq, Repr

/-- Where a rule mentions no part of the record: `0`, `NONE`, `false` (R11). -/
def Result.quiet : Result := ⟨0, .none, false, none⟩

/-- The framebuffer: the cells stored since power-on, as (index, cell) with strictly rising index. An index that is
not listed has no stored value, and its read is the free value `FB_INIT` (log 5, log 6). -/
abbrev Memory := List (Nat × Cell)

/-- The whole state: the record of 10_state.md R20, and the model's own fields `cfg`, `pending`, `result`, `draws`,
`powerOns` (INVENTORY.md, log 1 to 5). -/
structure State where
  /-- The configuration, read-only for every operation (R37; log 3). -/
  cfg             : Config
  pstate          : PState
  rdSub           : RdSub
  wrPhase         : Bool
  shift16         : Word
  colStart        : Word
  colEnd          : Word
  rowStart        : Word
  rowEnd          : Word
  cursorCol       : Word
  cursorRow       : Word
  gamma           : Byte
  my              : Bool
  mx              : Bool
  mv              : Bool
  interfaceFormat : BitVec 3
  controlFormat   : BitVec 3
  sleepIn         : Bool
  displayOn       : Bool
  tearingOn       : Bool
  inversionOn     : Bool
  idleOn          : Bool
  dirty           : Bool
  fatal           : Bool
  fb              : Memory
  /-- The operations presented and not yet taken, oldest first (log 1). -/
  pending         : List Operation
  /-- The result of the last operation (log 2). -/
  result          : Result
  /-- How many `RD_RESP` bytes have been drawn (log 4). -/
  draws           : Nat
  /-- How many `POWER_ON` operations ran (log 5). -/
  powerOns        : Nat
deriving DecidableEq, Repr

/-- Why a step stops. -/
inductive Fault where
  /-- Raised by `step` when the presented bus offset does not fit `ADDR_W` bits: no such offset exists (10_state.md
  R46; log 8). Safe: no agent can present it. -/
  | offsetOutsideBusSpace (off : Nat)
deriving DecidableEq, Repr

/-- Why an instruction is given no meaning. -/
inductive Refusal where
  /-- Answered by `exec` for an instruction without a meaning; safe. No arm answers it. -/
  | notModelled (mnemonic : String)
deriving DecidableEq, Repr

/-- The state right after power-on of a block with configuration `cfg`, every field at its value of 10_state.md R50
(`MV` is 0, so the window is `W-1` by `H-1`); no cell is listed, because the power-on content is unspecified. -/
def State.afterPowerOn (cfg : Config) : State where
  cfg             := cfg
  pstate          := .idle
  rdSub           := .r0
  wrPhase         := false
  shift16         := 0
  colStart        := 0
  colEnd          := BitVec.ofNat 16 (cfg.W - 1)
  rowStart        := 0
  rowEnd          := BitVec.ofNat 16 (cfg.H - 1)
  cursorCol       := 0
  cursorRow       := 0
  gamma           := 0
  my              := false
  mx              := false
  mv              := false
  interfaceFormat := 0b110#3
  controlFormat   := 0b110#3
  sleepIn         := true
  displayOn       := false
  tearingOn       := false
  inversionOn     := false
  idleOn          := false
  dirty           := false
  fatal           := false
  fb              := []
  pending         := []
  result          := .quiet
  draws           := 0
  powerOns        := 0

/-- `S0` of 95_test_vectors.md: the state after `POWER_ON` under the reference configuration, nothing presented. -/
def State.reset : State := State.afterPowerOn Config.reference

end Sys2Proof.Machine
end

