-- ==== Sys2Proof/Machine/Flags.lean ====
section
/-! DEFINITION. The flags: the five mode flags, `dirty`, and the values a reset gives the mode flags (10_state.md R40,
R42). Nothing in the block reads a mode flag. -/

namespace Sys2Proof.Machine

/-- Write `sleep_in`. -/
def State.setSleepIn (s : State) (v : Bool) : State := { s with sleepIn := v }

/-- Write `display_on`. -/
def State.setDisplayOn (s : State) (v : Bool) : State := { s with displayOn := v }

/-- Write `tearing_on`. -/
def State.setTearingOn (s : State) (v : Bool) : State := { s with tearingOn := v }

/-- Write `inversion_on`. -/
def State.setInversionOn (s : State) (v : Bool) : State := { s with inversionOn := v }

/-- Write `idle_on`. -/
def State.setIdleOn (s : State) (v : Bool) : State := { s with idleOn := v }

/-- `RST_FLAGS`: `sleep_in` 1, the others 0 (00_scope.md R7, decision D12). -/
def State.resetFlags (s : State) : State :=
  ((((s.setSleepIn true).setDisplayOn false).setTearingOn false).setInversionOn false).setIdleOn false

/-- `PAINT` consumes the dirty marker (46_display_ctrl_top.md R258, decision D19). -/
def State.clearDirty (s : State) : State := { s with dirty := false }

end Sys2Proof.Machine
end

