-- ==== Sys2Proof/Machine/AddressWindow.lean ====
section
/-! DEFINITION. address_window: the post-increment walk of the cursor (42_address_window.md). -/

namespace Sys2Proof.Machine

/-- The column after a pixel step: the un-truncated sum is compared with the end (R201, R203). -/
def nextCol (colStart colEnd col : Word) : Word :=
  if col.toNat + 1 > colEnd.toNat then colStart else col + 1

/-- The row after a pixel step: it moves only when the column goes back to its start (R201). -/
def nextRow (colEnd rowStart rowEnd col row : Word) : Word :=
  if col.toNat + 1 > colEnd.toNat then
    if row.toNat + 1 > rowEnd.toNat then rowStart else row + 1
  else row

/-- Write the cursor. -/
def State.setCursor (s : State) (col row : Word) : State := { s with cursorCol := col, cursorRow := row }

/-- `AdvanceCursor()` (R201). -/
def State.advanceCursor (s : State) : State :=
  s.setCursor (nextCol s.colStart s.colEnd s.cursorCol)
    (nextRow s.colEnd s.rowStart s.rowEnd s.cursorCol s.cursorRow)

/-- `CursorToStart()` (R202). -/
def State.cursorToStart (s : State) : State := s.setCursor s.colStart s.rowStart

/-- Load `col_start` (41_protocol_fsm.md R166). -/
def State.loadColStart (s : State) (v : Word) : State := { s with colStart := v }

/-- Load `col_end` (41_protocol_fsm.md R168). -/
def State.loadColEnd (s : State) (v : Word) : State := { s with colEnd := v }

/-- Load `row_start` (41_protocol_fsm.md R170). -/
def State.loadRowStart (s : State) (v : Word) : State := { s with rowStart := v }

/-- Load `row_end` (41_protocol_fsm.md R172). -/
def State.loadRowEnd (s : State) (v : Word) : State := { s with rowEnd := v }

end Sys2Proof.Machine
end

