-- ==== Sys2Proof/Machine/CoordTransform.lean ====
section
/-! DEFINITION. coord_transform_rotate: logical to physical coordinates, a pure function (43_coord_transform.md). -/

namespace Sys2Proof.Machine

/-- The physical `x` of R210, exact (R212). -/
def physX (W H : Nat) (my mx mv : Bool) (col row : Int) : Int :=
  if mv then (if my then row else (H : Int) - 1 - row)
  else (if mx then (W : Int) - 1 - col else col)

/-- The physical `y` of R210, exact (R212); with `MV = 1` it is decision D17's reading of "symmetrically". -/
def physY (W H : Nat) (my mx mv : Bool) (col row : Int) : Int :=
  if mv then (if mx then col else (W : Int) - 1 - col)
  else (if my then (H : Int) - 1 - row else row)

/-- The logical column of a physical position, the inverse table of R215. -/
def logicalCol (W _H : Nat) (_my mx mv : Bool) (x y : Int) : Int :=
  if mv then (if mx then y else (W : Int) - 1 - y)
  else (if mx then (W : Int) - 1 - x else x)

/-- The logical row of a physical position, the inverse table of R215. -/
def logicalRow (_W H : Nat) (my _mx mv : Bool) (x y : Int) : Int :=
  if mv then (if my then x else (H : Int) - 1 - x)
  else (if my then (H : Int) - 1 - y else y)

/-- `Transform(col, row)`: the panel position, or none where `valid` is false (R210, R211; an option because no rule
uses `x`, `y` then, U12; log 20). -/
def transform (W H : Nat) (my mx mv : Bool) (col row : Word) : Option (Nat × Nat) :=
  let x := physX W H my mx mv col.toNat row.toNat
  let y := physY W H my mx mv col.toNat row.toNat
  if 0 ≤ x ∧ x < W ∧ 0 ≤ y ∧ y < H then some (x.toNat, y.toNat) else none

end Sys2Proof.Machine
end

