-- ==== Sys2Proof/Machine/Framebuffer.lean ====
section
/-! DEFINITION. framebuffer_memory: the pixel store, in its canonical form, and the bulk copy of `PAINT`
(45_framebuffer_memory.md). -/

namespace Sys2Proof.Machine

/-- The cell stored at an index since power-on, if any. -/
def Memory.read? : Memory → Nat → Option Cell
  | [], _ => none
  | (j, c) :: m, i => if j = i then some c else Memory.read? m i

/-- Store a whole cell, keeping the indices strictly rising. -/
def Memory.write : Memory → Nat → Cell → Memory
  | [], i, v => [(i, v)]
  | (j, c) :: m, i, v =>
    if i < j then (i, v) :: (j, c) :: m
    else if i = j then (i, v) :: m
    else (j, c) :: Memory.write m i v

/-- Every index listed is above `lo`, and they rise strictly. -/
def Memory.risingFrom (lo : Nat) : Memory → Bool
  | [] => true
  | (j, _) :: m => decide (lo ≤ j) && Memory.risingFrom (j + 1) m

/-- The canonical form: indices strictly rising. An unlisted index reads as no stored value, so no entry can equal
what an unlisted index reads as (log 6). -/
def Memory.wf (m : Memory) : Bool := Memory.risingFrom 0 m

/-- `fb[y*W + x]` (10_state.md R45). -/
def State.cellIndex (s : State) (x y : Nat) : Nat := y * s.cfg.W + x

/-- `FbGet(x, y)`: the last store to the cell, else its power-on content, a free value (R237; log 5). -/
def State.fbGet (s : State) (x y : Nat) : Cell :=
  (s.fb.read? (s.cellIndex x y)).getD (Config.fbInit s.powerOns (s.cellIndex x y))

/-- `FbSet(x, y, cell)`: the cell and the dirty marker in one step (R236). That the operation also reports
`invalidate` is in its result. -/
def State.fbSet (s : State) (x y : Nat) (c : Cell) : State :=
  { s with fb := s.fb.write (s.cellIndex x y) c, dirty := true }

/-- The transformed cursor (43_coord_transform.md R210). -/
def State.cursorPosition (s : State) : Option (Nat × Nat) :=
  transform s.cfg.W s.cfg.H s.my s.mx s.mv s.cursorCol s.cursorRow

/-- `GetAtCursor()`: the cell, or 0 when the position is invalid (R238). -/
def State.getAtCursor (s : State) : Cell :=
  match s.cursorPosition with
  | some (x, y) => s.fbGet x y
  | none => 0

/-- A surface `width` by `height` in row-major order whose pixel `(sx, sy)` is `f sx sy`. -/
def Surface.build (width height : Nat) (f : Nat → Nat → Colour) : Surface where
  width  := width
  height := height
  pixels := (List.range height).flatMap fun sy => (List.range width).map fun sx => f sx sy

/-- `BulkCopy()`: the whole framebuffer, as it lies or transposed (R239; decision D19). -/
def State.bulkCopy (s : State) : Surface :=
  if s.cfg.rotate then
    Surface.build s.cfg.H s.cfg.W fun sx sy => (s.fbGet sy sx).setWidth 24
  else
    Surface.build s.cfg.W s.cfg.H fun sx sy => (s.fbGet sx sy).setWidth 24

end Sys2Proof.Machine
end

