-- ==== Sys2Proof/WellFormed.lean ====
section
/-! DEFINITION. When an instruction is one the block can meet: its operands are in range and the protocol state and
the configuration select it. -/

namespace Sys2Proof

/-- The 26 command bytes the block recognises, in the order of 30_encoding.md R92. -/
def knownOpcodes : List Byte :=
  [0x01, 0x04, 0x09, 0x0A, 0x0B, 0x0C, 0x0D, 0x0E, 0x0F] ++
  [0x10, 0x11, 0x20, 0x21, 0x26, 0x28, 0x29, 0x2A, 0x2B] ++
  [0x2C, 0x2E, 0x34, 0x35, 0x36, 0x38, 0x39, 0x3A]

/-- A presented operation exists on the wires: a bus offset has `ADDR_W` bits (10_state.md R46). -/
def Operation.inBusSpace (cfg : Config) : Operation → Bool
  | .bus off _ _ => decide (off < 2 ^ cfg.addrW)
  | .extReset => true
  | .powerOn => true
  | .paint => true

/-- The states in which a data write is not consumed (41_protocol_fsm.md R160). -/
def ignoresWrite : PState → Bool
  | .idle => true
  | .read _ _ => true
  | .readMem => true
  | .gamset0 => false
  | .caset _ => false
  | .raset _ => false
  | .madctl0 => false
  | .colmod0 => false
  | .writeMem => false

/-- The states in which a data read produces nothing (41_protocol_fsm.md R161). -/
def ignoresRead : PState → Bool
  | .idle => true
  | .read _ _ => false
  | .readMem => false
  | .gamset0 => true
  | .caset _ => true
  | .raset _ => true
  | .madctl0 => true
  | .colmod0 => true
  | .writeMem => true

/-- The instruction's operands are in range and `cfg`, `pstate` and `rd_sub` select its row. -/
def Instr.wf (cfg : Config) (ps : PState) (rs : RdSub) : Instr → Bool
  | .swreset => true
  | .rddid => true
  | .rddst => true
  | .rddpm => true
  | .rddmadctl => true
  | .rddcolmod => true
  | .rddim => true
  | .rddsm => true
  | .rddsdr => true
  | .slpin => true
  | .slpout => true
  | .invoff => true
  | .invon => true
  | .gamset => true
  | .dispoff => true
  | .dispon => true
  | .caset => true
  | .raset => true
  | .ramwr => true
  | .ramrd => true
  | .teoff => true
  | .teon => true
  | .madctl => true
  | .idmoff => true
  | .idmon => true
  | .colmod => true
  | .unknownCmd c => !knownOpcodes.contains c
  | .dwCaset0 _ => decide (ps = .caset .s0)
  | .dwCaset1 _ => decide (ps = .caset .s1)
  | .dwCaset2 _ => decide (ps = .caset .s2)
  | .dwCaset3 _ => decide (ps = .caset .s3)
  | .dwRaset0 _ => decide (ps = .raset .s0)
  | .dwRaset1 _ => decide (ps = .raset .s1)
  | .dwRaset2 _ => decide (ps = .raset .s2)
  | .dwRaset3 _ => decide (ps = .raset .s3)
  | .dwMadctl0 _ => decide (ps = .madctl0)
  | .dwColmod0 _ => decide (ps = .colmod0)
  | .dwGamset0 _ => decide (ps = .gamset0)
  | .dwWriteMem _ => decide (ps = .writeMem ∧ cfg.pixelBeats = .one)
  | .dwWriteMemBeats2 _ => decide (ps = .writeMem ∧ cfg.pixelBeats = .two)
  | .dwIgnored _ => ignoresWrite ps
  | .drRddid0 => decide (ps = .read .rddid .s0)
  | .drRddid1 => decide (ps = .read .rddid .s1)
  | .drRddid2 => decide (ps = .read .rddid .s2)
  | .drRddid3 => decide (ps = .read .rddid .s3)
  | .drRddst0 => decide (ps = .read .rddst .s0)
  | .drRddst1 => decide (ps = .read .rddst .s1)
  | .drRddst2 => decide (ps = .read .rddst .s2)
  | .drRddst3 => decide (ps = .read .rddst .s3)
  | .drRddpm0 => decide (ps = .read .rddpm .s0)
  | .drRddpm1 => decide (ps = .read .rddpm .s1)
  | .drRddpm2 => decide (ps = .read .rddpm .s2)
  | .drRddpm3 => decide (ps = .read .rddpm .s3)
  | .drRddmadctl0 => decide (ps = .read .rddmadctl .s0)
  | .drRddmadctl1 => decide (ps = .read .rddmadctl .s1)
  | .drRddmadctl2 => decide (ps = .read .rddmadctl .s2)
  | .drRddmadctl3 => decide (ps = .read .rddmadctl .s3)
  | .drRddcolmod0 => decide (ps = .read .rddcolmod .s0)
  | .drRddcolmod1 => decide (ps = .read .rddcolmod .s1)
  | .drRddcolmod2 => decide (ps = .read .rddcolmod .s2)
  | .drRddcolmod3 => decide (ps = .read .rddcolmod .s3)
  | .drRddim0 => decide (ps = .read .rddim .s0)
  | .drRddim1 => decide (ps = .read .rddim .s1)
  | .drRddim2 => decide (ps = .read .rddim .s2)
  | .drRddim3 => decide (ps = .read .rddim .s3)
  | .drRddsm0 => decide (ps = .read .rddsm .s0)
  | .drRddsm1 => decide (ps = .read .rddsm .s1)
  | .drRddsm2 => decide (ps = .read .rddsm .s2)
  | .drRddsm3 => decide (ps = .read .rddsm .s3)
  | .drRddsdr0 => decide (ps = .read .rddsdr .s0)
  | .drRddsdr1 => decide (ps = .read .rddsdr .s1)
  | .drRddsdr2 => decide (ps = .read .rddsdr .s2)
  | .drRddsdr3 => decide (ps = .read .rddsdr .s3)
  | .drReadMem0 => decide (ps = .readMem ∧ rs = .r0)
  | .drReadMem1 => decide (ps = .readMem ∧ rs = .r1)
  | .drReadMem2 => decide (ps = .readMem ∧ rs = .r2)
  | .drIgnored => ignoresRead ps
  | .unmapped off we _ =>
    decide (off < 2 ^ cfg.addrW) && !(decide (off = cfg.offCmd) && we) && !decide (off = cfg.offData)
  | .extReset => true
  | .powerOn => true
  | .paint => true

end Sys2Proof
end

