-- ==== Sys2Proof/Decode.lean ====
section
/-! DEFINITION. Decoding of a presented operation, total, rejecting by name; then the encoder; then the numbering of
spec/opcode_table.json. -/

namespace Sys2Proof

/-- Why a presented operation is no instruction. -/
inductive DecodeError where
  /-- The offset does not fit the `ADDR_W` wires of the offset input (10_state.md R46). -/
  | offsetOutsideBusSpace (off : Nat)
deriving DecidableEq, Repr

/-! ### Commands -/

/-- Class a, flag commands (30_encoding.md R92, R93). -/
def flagRows : List (Byte × Instr) :=
  [(0x10, .slpin), (0x11, .slpout), (0x20, .invoff), (0x21, .invon), (0x28, .dispoff), (0x29,
   .dispon), (0x34, .teoff), (0x35, .teon), (0x38, .idmoff), (0x39, .idmon)]

/-- Class b, the commands that arm a read sequence. -/
def readRows : List (Byte × Instr) :=
  [(0x04, .rddid), (0x09, .rddst), (0x0A, .rddpm), (0x0B, .rddmadctl), (0x0C, .rddcolmod), (0x0D,
   .rddim), (0x0E, .rddsm), (0x0F, .rddsdr)]

/-- Class b, the other arming commands. -/
def armRows : List (Byte × Instr) :=
  [(0x26, .gamset), (0x2A, .caset), (0x2B, .raset), (0x2C, .ramwr), (0x2E, .ramrd), (0x36, .madctl),
   (0x3A, .colmod)]

/-- Class c, the reset command. -/
def resetRows : List (Byte × Instr) := [(0x01, .swreset)]

/-- The command map of 30_encoding.md R92, 26 rows. The numbers but `0x29` are decision D4 (log 15). -/
def commandTable : List (Byte × Instr) := flagRows ++ readRows ++ armRows ++ resetRows

/-- A command byte is decoded the same way in every state; a byte without a row is unknown (R93 to R95). -/
def decodeCommand (c : Byte) : Instr := (commandTable.lookup c).getD (.unknownCmd c)

/-! ### Data phase -/

/-- A parameter byte travels in `wdata[7:0]`; `wdata[15:8]` is ignored (20_memory.md R61). -/
def paramByte (w : Word) : Byte := w.extractLsb' 0 8

/-- The row of a data write (41_protocol_fsm.md R160), over the closed enumeration of states. -/
def decodeDataWrite (beats : PixelBeats) (w : Word) : PState → Instr
  | .caset .s0 => .dwCaset0 (paramByte w)
  | .caset .s1 => .dwCaset1 (paramByte w)
  | .caset .s2 => .dwCaset2 (paramByte w)
  | .caset .s3 => .dwCaset3 (paramByte w)
  | .raset .s0 => .dwRaset0 (paramByte w)
  | .raset .s1 => .dwRaset1 (paramByte w)
  | .raset .s2 => .dwRaset2 (paramByte w)
  | .raset .s3 => .dwRaset3 (paramByte w)
  | .madctl0 => .dwMadctl0 (paramByte w)
  | .colmod0 => .dwColmod0 (paramByte w)
  | .gamset0 => .dwGamset0 (paramByte w)
  | .writeMem =>
    match beats with
    | .one => .dwWriteMem w
    | .two => .dwWriteMemBeats2 (paramByte w)
  | .idle => .dwIgnored w
  | .readMem => .dwIgnored w
  | .read _ _ => .dwIgnored w

/-- The row of a data read (41_protocol_fsm.md R161). -/
def decodeDataRead (rs : RdSub) : PState → Instr
  | .read .rddid .s0 => .drRddid0
  | .read .rddid .s1 => .drRddid1
  | .read .rddid .s2 => .drRddid2
  | .read .rddid .s3 => .drRddid3
  | .read .rddst .s0 => .drRddst0
  | .read .rddst .s1 => .drRddst1
  | .read .rddst .s2 => .drRddst2
  | .read .rddst .s3 => .drRddst3
  | .read .rddpm .s0 => .drRddpm0
  | .read .rddpm .s1 => .drRddpm1
  | .read .rddpm .s2 => .drRddpm2
  | .read .rddpm .s3 => .drRddpm3
  | .read .rddmadctl .s0 => .drRddmadctl0
  | .read .rddmadctl .s1 => .drRddmadctl1
  | .read .rddmadctl .s2 => .drRddmadctl2
  | .read .rddmadctl .s3 => .drRddmadctl3
  | .read .rddcolmod .s0 => .drRddcolmod0
  | .read .rddcolmod .s1 => .drRddcolmod1
  | .read .rddcolmod .s2 => .drRddcolmod2
  | .read .rddcolmod .s3 => .drRddcolmod3
  | .read .rddim .s0 => .drRddim0
  | .read .rddim .s1 => .drRddim1
  | .read .rddim .s2 => .drRddim2
  | .read .rddim .s3 => .drRddim3
  | .read .rddsm .s0 => .drRddsm0
  | .read .rddsm .s1 => .drRddsm1
  | .read .rddsm .s2 => .drRddsm2
  | .read .rddsm .s3 => .drRddsm3
  | .read .rddsdr .s0 => .drRddsdr0
  | .read .rddsdr .s1 => .drRddsdr1
  | .read .rddsdr .s2 => .drRddsdr2
  | .read .rddsdr .s3 => .drRddsdr3
  | .readMem =>
    match rs with
    | .r0 => .drReadMem0
    | .r1 => .drReadMem1
    | .r2 => .drReadMem2
  | .idle => .drIgnored
  | .writeMem => .drIgnored
  | .caset _ => .drIgnored
  | .raset _ => .drIgnored
  | .madctl0 => .drIgnored
  | .colmod0 => .drIgnored
  | .gamset0 => .drIgnored

/-- Offset decode and routing (46_display_ctrl_top.md R252); `ps` and `rs` are the protocol state the operation
meets. -/
def decode (cfg : Config) (ps : PState) (rs : RdSub) : Operation → Except DecodeError Instr
  | .bus off we w =>
    if off < 2 ^ cfg.addrW then
      if off = cfg.offCmd ∧ we = true then .ok (decodeCommand (paramByte w))
      else if off = cfg.offData ∧ we = true then .ok (decodeDataWrite cfg.pixelBeats w ps)
      else if off = cfg.offData ∧ we = false then .ok (decodeDataRead rs ps)
      else .ok (.unmapped off we w)
    else .error (.offsetOutsideBusSpace off)
  | .extReset => .ok .extReset
  | .powerOn => .ok .powerOn
  | .paint => .ok .paint

/-! ### The encoder -/

/-- A write of a command byte (30_encoding.md R105, `CW bb`). -/
def commandWrite (cfg : Config) (c : Byte) : Operation := .bus cfg.offCmd true (c.setWidth 16)

/-- A data write (`DW wwww`). -/
def dataWrite (cfg : Config) (w : Word) : Operation := .bus cfg.offData true w

/-- A data write of one parameter byte, the ignored bits 0. -/
def paramWrite (cfg : Config) (b : Byte) : Operation := dataWrite cfg (b.setWidth 16)

/-- A data read (`DR`); the word of a read means nothing and is written 0. -/
def dataRead (cfg : Config) : Operation := .bus cfg.offData false 0

/-- The operation that presents an instruction, ignored bits 0. -/
def encode (cfg : Config) : Instr → Operation
  | .swreset => commandWrite cfg 0x01
  | .rddid => commandWrite cfg 0x04
  | .rddst => commandWrite cfg 0x09
  | .rddpm => commandWrite cfg 0x0A
  | .rddmadctl => commandWrite cfg 0x0B
  | .rddcolmod => commandWrite cfg 0x0C
  | .rddim => commandWrite cfg 0x0D
  | .rddsm => commandWrite cfg 0x0E
  | .rddsdr => commandWrite cfg 0x0F
  | .slpin => commandWrite cfg 0x10
  | .slpout => commandWrite cfg 0x11
  | .invoff => commandWrite cfg 0x20
  | .invon => commandWrite cfg 0x21
  | .gamset => commandWrite cfg 0x26
  | .dispoff => commandWrite cfg 0x28
  | .dispon => commandWrite cfg 0x29
  | .caset => commandWrite cfg 0x2A
  | .raset => commandWrite cfg 0x2B
  | .ramwr => commandWrite cfg 0x2C
  | .ramrd => commandWrite cfg 0x2E
  | .teoff => commandWrite cfg 0x34
  | .teon => commandWrite cfg 0x35
  | .madctl => commandWrite cfg 0x36
  | .idmoff => commandWrite cfg 0x38
  | .idmon => commandWrite cfg 0x39
  | .colmod => commandWrite cfg 0x3A
  | .unknownCmd c => commandWrite cfg c
  | .dwCaset0 b => paramWrite cfg b
  | .dwCaset1 b => paramWrite cfg b
  | .dwCaset2 b => paramWrite cfg b
  | .dwCaset3 b => paramWrite cfg b
  | .dwRaset0 b => paramWrite cfg b
  | .dwRaset1 b => paramWrite cfg b
  | .dwRaset2 b => paramWrite cfg b
  | .dwRaset3 b => paramWrite cfg b
  | .dwMadctl0 b => paramWrite cfg b
  | .dwColmod0 b => paramWrite cfg b
  | .dwGamset0 b => paramWrite cfg b
  | .dwWriteMem p => dataWrite cfg p
  | .dwWriteMemBeats2 b => paramWrite cfg b
  | .dwIgnored w => dataWrite cfg w
  | .drRddid0 => dataRead cfg
  | .drRddid1 => dataRead cfg
  | .drRddid2 => dataRead cfg
  | .drRddid3 => dataRead cfg
  | .drRddst0 => dataRead cfg
  | .drRddst1 => dataRead cfg
  | .drRddst2 => dataRead cfg
  | .drRddst3 => dataRead cfg
  | .drRddpm0 => dataRead cfg
  | .drRddpm1 => dataRead cfg
  | .drRddpm2 => dataRead cfg
  | .drRddpm3 => dataRead cfg
  | .drRddmadctl0 => dataRead cfg
  | .drRddmadctl1 => dataRead cfg
  | .drRddmadctl2 => dataRead cfg
  | .drRddmadctl3 => dataRead cfg
  | .drRddcolmod0 => dataRead cfg
  | .drRddcolmod1 => dataRead cfg
  | .drRddcolmod2 => dataRead cfg
  | .drRddcolmod3 => dataRead cfg
  | .drRddim0 => dataRead cfg
  | .drRddim1 => dataRead cfg
  | .drRddim2 => dataRead cfg
  | .drRddim3 => dataRead cfg
  | .drRddsm0 => dataRead cfg
  | .drRddsm1 => dataRead cfg
  | .drRddsm2 => dataRead cfg
  | .drRddsm3 => dataRead cfg
  | .drRddsdr0 => dataRead cfg
  | .drRddsdr1 => dataRead cfg
  | .drRddsdr2 => dataRead cfg
  | .drRddsdr3 => dataRead cfg
  | .drReadMem0 => dataRead cfg
  | .drReadMem1 => dataRead cfg
  | .drReadMem2 => dataRead cfg
  | .drIgnored => dataRead cfg
  | .unmapped off we w => .bus off we w
  | .extReset => .extReset
  | .powerOn => .powerOn
  | .paint => .paint

/-! ### The protocol state's codes and the numbering of spec/opcode_table.json -/

/-- The place of a sequence among the eight. -/
def ReadSeq.index : ReadSeq → Nat
  | .rddid => 0
  | .rddst => 1
  | .rddpm => 2
  | .rddmadctl => 3
  | .rddcolmod => 4
  | .rddim => 5
  | .rddsm => 6
  | .rddsdr => 7

/-- The place of a sub-state in its sequence. -/
def SubState.index : SubState → Nat
  | .s0 => 0
  | .s1 => 1
  | .s2 => 2
  | .s3 => 3

/-- The code of `pstate`, 0 to 45 (10_state.md R22; the codes are decision D23, log 21). -/
def PState.code : PState → Nat
  | .idle => 0
  | .read q k => 1 + 4 * q.index + k.index
  | .gamset0 => 33
  | .caset k => 34 + k.index
  | .raset k => 38 + k.index
  | .madctl0 => 42
  | .colmod0 => 43
  | .writeMem => 44
  | .readMem => 45

/-- The four sub-states in order. -/
def subStates : List SubState := [.s0, .s1, .s2, .s3]

/-- The 46 states in the order of their codes. -/
def allPStates : List PState :=
  [.idle] ++ subStates.map (.read .rddid) ++ subStates.map (.read .rddst) ++ subStates.map (.read .rddpm) ++
  subStates.map (.read .rddmadctl) ++ subStates.map (.read .rddcolmod) ++ subStates.map (.read .rddim) ++
  subStates.map (.read .rddsm) ++ subStates.map (.read .rddsdr) ++ [.gamset0] ++
  subStates.map .caset ++ subStates.map .raset ++ [.madctl0, .colmod0, .writeMem, .readMem]

/-- The data access a state expects; a read where it expects none, with the operand word of zeros. -/
def expectedAccess (cfg : Config) (ps : PState) : Operation :=
  if ignoresRead ps = true ∧ ignoresWrite ps = false then dataWrite cfg 0 else dataRead cfg

/-- What a number of spec/opcode_table.json stands for: the operation to present and, for a data-phase row, the
protocol state that selects the row (30_encoding.md R107). -/
structure TableRequest where
  selectedBy : Option PState
  op         : Operation
deriving DecidableEq, Repr

/-- A data-phase row by the code of its state. -/
def dataRow (cfg : Config) (code : Nat) : Option TableRequest :=
  (allPStates[code]?).map fun ps => ⟨some ps, expectedAccess cfg ps⟩

/-- The table matches command rows on `wdata[7:0]` and data rows on the code of `pstate`, two numberings that
overlap. A number that is a command byte is the command; else a number that is a state's code is that state's data
row; else it is an unknown command. A 16-bit zero is the returned word of `DR.IGNORED`, the one row of 16 fixed
bits; fewer than 8 bits can only be a state's code. DESIGN CHOICE (log 9). -/
def tableRequest (cfg : Config) (nbits w : Nat) : Option TableRequest :=
  let command : TableRequest := ⟨none, .bus cfg.offCmd true (BitVec.ofNat 16 w)⟩
  if 16 < nbits ∨ 2 ^ nbits ≤ w then none
  else if nbits < 8 then dataRow cfg w
  else if knownOpcodes.contains (BitVec.ofNat 8 w) then some command
  else if nbits = 16 ∧ w = 0 then dataRow cfg 0
  else if w = 0 then some command
  else some ((dataRow cfg w).getD command)

/-- The instruction the decoder reads from a number of the table, under the reference configuration (log 9). -/
def decodeTableWord (nbits w : Nat) : Option Instr :=
  match tableRequest Config.reference nbits w with
  | none => none
  | some r =>
    match decode Config.reference (r.selectedBy.getD .idle) .r0 r.op with
    | .ok i => some i
    | .error _ => none

end Sys2Proof
end

