-- ==== Sys2Proof/Machine/Operands.lean ====
section
/-! DEFINITION. Operand forms: the fields of the parameter bytes, the byte assembly, and the reply words. -/

namespace Sys2Proof.Machine

/-- `MY` in the memory-access-control byte (30_encoding.md R98). -/
def madctlMY (b : Byte) : Bool := b.getLsbD 7

/-- `MX` in the memory-access-control byte (R98). -/
def madctlMX (b : Byte) : Bool := b.getLsbD 6

/-- `MV` in the memory-access-control byte (R98). -/
def madctlMV (b : Byte) : Bool := b.getLsbD 5

/-- `interface_format` in the pixel-format-set byte (R99). -/
def colmodInterface (b : Byte) : BitVec 3 := b.extractLsb' 4 3

/-- `control_format` in the pixel-format-set byte (R99). -/
def colmodControl (b : Byte) : BitVec 3 := b.extractLsb' 0 3

/-- "18 bits/pixel", the one value of `control_format` with a defined use (10_state.md R36). -/
def format18 : BitVec 3 := 0b110#3

/-- The byte `RST_COLMOD` loaded by reset (00_scope.md R7, decision D12). -/
def rstColmod : Byte := 0x66

/-- `Shift8`: `((x << 8) | b) & 0xFFFF` (41_protocol_fsm.md R163). -/
def shiftByte (x : Word) (b : Byte) : Word := (x <<< 8) ||| b.setWidth 16

/-- A byte of a finite read sequence is `rdata[7:0]`, `rdata[15:8]` is 0 (20_memory.md R61). -/
def byteReply (b : Byte) : Word := b.setWidth 16

/-- The four bytes of the read-display-id sequence (41_protocol_fsm.md R175). -/
def displayIdByte (id : BitVec 24) : SubState → Byte
  | .s0 => 0
  | .s1 => id.extractLsb' 16 8
  | .s2 => id.extractLsb' 8 8
  | .s3 => id.extractLsb' 0 8

/-- Where a finite read sequence goes after sub-state `k` (R175, R176). -/
def nextRead (q : ReadSeq) : SubState → PState
  | .s0 => .read q .s1
  | .s1 => .read q .s2
  | .s2 => .read q .s3
  | .s3 => .idle

end Sys2Proof.Machine
end

