-- ==== Sys2Proof/Machine/PixelCodec.lean ====
section
/-! DEFINITION. pixel_codec: pure functions from a wire pixel to a cell and back (44_pixel_codec.md). -/

namespace Sys2Proof.Machine

/-- `Encode565`: `{0x00, p[15:11] << 3, p[10:5] << 2, p[4:0] << 3}`, zero filled (44_pixel_codec.md R220, R221). -/
def encode565 (p : Word) : Cell :=
  let r : Byte := (p.extractLsb' 11 5).setWidth 8 <<< 3
  let g : Byte := (p.extractLsb' 5 6).setWidth 8 <<< 2
  let b : Byte := (p.extractLsb' 0 5).setWidth 8 <<< 3
  0#8 ++ r ++ g ++ b

/-- The left inverse of `Encode565`; no operation uses it (R222). -/
def decode565 (c : Cell) : Word := c.extractLsb' 19 5 ++ c.extractLsb' 10 6 ++ c.extractLsb' 3 5

/-- `LaneR(c) = c[23:16]` (R223). -/
def laneR (c : Cell) : Byte := c.extractLsb' 16 8

/-- `LaneG(c) = c[15:8]` (R223). -/
def laneG (c : Cell) : Byte := c.extractLsb' 8 8

/-- `LaneB(c) = c[7:0]` (R223). -/
def laneB (c : Cell) : Byte := c.extractLsb' 0 8

/-- `PackRead(k, a, n)`, the word of transfer `k` for pixels A and B (R224). The source calls the packing inferred:
INFERRED, marked DEDUCED (R226, U6; log 10). -/
def packRead (k : RdSub) (a n : Cell) : Word :=
  match k with
  | .r0 => laneR a ++ laneG a
  | .r1 => laneB a ++ laneR n
  | .r2 => laneG n ++ laneB n

/-- A cell the block can have stored: the image of `Encode565` (R222). -/
def isEncoded (c : Cell) : Bool :=
  decide (c.extractLsb' 24 8 = 0) && decide (c.extractLsb' 16 3 = 0) &&
    decide (c.extractLsb' 8 2 = 0) && decide (c.extractLsb' 0 3 = 0)

/-- What the guest makes of the three words of a group: pixels A and B as (R, G, B) (R225). -/
def unpackGroup (t0 t1 t2 : Word) : (Byte × Byte × Byte) × (Byte × Byte × Byte) :=
  ((t0.extractLsb' 8 8, t0.extractLsb' 0 8, t1.extractLsb' 8 8),
   (t1.extractLsb' 0 8, t2.extractLsb' 8 8, t2.extractLsb' 0 8))

end Sys2Proof.Machine
end

