-- ==== Sys2Proof/Machine/Ops.lean ====
section
/-! DEFINITION. The named operations the meanings are written over. -/

namespace Sys2Proof.Machine

/-! ### Result and outcome -/

/-- The numbers of the outcomes (60_exceptions.md R271). -/
def Diag.code : Diag → BitVec 2
  | .none => 0
  | .unimplCmd _ => 1
  | .unimplOffset _ => 2
  | .dataIgnored _ => 3

/-- The `info` recorded with a diagnostic (R271). The table gives none (`-`) where no diagnostic is emitted, and the 0
there is the model's filler. DESIGN CHOICE (log 22); no meaning reads it. -/
def Diag.info : Diag → Nat
  | .none => 0
  | .unimplCmd c => c.toNat
  | .unimplOffset off => off
  | .dataIgnored code => code

/-- A diagnostic and nothing else. -/
def Result.diagnose (d : Diag) : Result := { Result.quiet with diag := d }

/-- The word a read returns and nothing else. -/
def Result.read (w : Word) : Result := { Result.quiet with rdata := w }

/-- The result of an operation that stored a cell. -/
def Result.stored : Result := { Result.quiet with invalidate := true }

/-- The result of a `PAINT`. -/
def Result.painted (f : Surface) : Result := { Result.quiet with surface := some f }

/-- Record the result of the operation. -/
def State.reply (s : State) (r : Result) : State := { s with result := r }

/-! ### The fatal fault and the refusal after it -/

/-- `raise FATAL`: `fatal <- 1` and nothing else; nothing is saved and control goes nowhere (60_exceptions.md R275,
R280). There is no return from it, only `POWER_ON` (R281). -/
def State.raiseFatal (s : State) : State := { s with fatal := true, result := .quiet }

/-- An operation refused while `fatal = 1`: no field of the spec's state changes, the placeholders are returned
(R276; log 7). -/
def State.refuse (s : State) : State := s.reply .quiet

/-- Every operation but `POWER_ON` tests `fatal` first (R276, R279). -/
def State.unlessFatal (s : State) (f : State → State) : Host.Outcome State Fault Refusal :=
  .next (if s.fatal then s.refuse else f s)

/-! ### The sequencer -/

/-- `S.pstate <- target` (00_scope.md R10). -/
def State.goto (s : State) (ps : PState) : State := { s with pstate := ps }

/-- `S.rd_sub <- v`. -/
def State.setRdSub (s : State) (v : RdSub) : State := { s with rdSub := v }

/-- `S.wr_phase <- v`. -/
def State.setWrPhase (s : State) (v : Bool) : State := { s with wrPhase := v }

/-- An arming command overwrites `pstate` and returns nothing (40_cmd_dispatcher.md R132). -/
def State.arm (s : State) (ps : PState) : State := (s.goto ps).reply .quiet

/-! ### Parameter registers -/

/-- `Shift8(b)` (41_protocol_fsm.md R163). -/
def State.shift8 (s : State) (b : Byte) : State := { s with shift16 := shiftByte s.shift16 b }

/-- Load the three orientation bits from the parameter byte (R173). -/
def State.loadOrientation (s : State) (b : Byte) : State :=
  { s with my := madctlMY b, mx := madctlMX b, mv := madctlMV b }

/-- Load both pixel format fields from the parameter byte (R174). -/
def State.loadFormat (s : State) (b : Byte) : State :=
  { s with interfaceFormat := colmodInterface b, controlFormat := colmodControl b }

/-- Load `gamma` (R177). -/
def State.loadGamma (s : State) (b : Byte) : State := { s with gamma := b }

/-! ### Data accesses the state does not expect, and the read replies -/

/-- An access the state neither consumes nor produces: nothing changes, `diag(DATA_IGNORED, code)` (R162). -/
def State.ignoreData (s : State) : State := s.reply (.diagnose (.dataIgnored s.pstate.code))

/-- A byte of a finite read sequence, and the sequence moves one step (R175, R176). -/
def State.replyByte (s : State) (b : Byte) (next : PState) : State := (s.goto next).reply (.read (byteReply b))

/-- Count one draw of the free value `RD_RESP` (log 4). -/
def State.countDraw (s : State) : State := { s with draws := s.draws + 1 }

/-- A byte the source does not give: a fresh free value (R176, U3). -/
def State.replyOpen (s : State) (next : PState) : State :=
  s.countDraw.replyByte (Config.rdResp s.draws) next

/-! ### The pixel steps -/

/-- One pixel written at the cursor: stored if the position is on the panel, dropped otherwise; the cursor advances
either way (R180; 60_exceptions.md R273). -/
def State.writePixel (s : State) (p : Word) : State :=
  match s.cursorPosition with
  | some (x, y) => ((s.fbSet x y (encode565 p)).advanceCursor).reply .stored
  | none => s.advanceCursor.reply .quiet

/-- One of two data writes of a pixel, high byte first (R181, `PIXEL_BEATS = 2`). -/
def State.writeHalf (s : State) (b : Byte) : State :=
  let t := s.shift8 b
  if s.wrPhase then (t.setWrPhase false).writePixel t.shift16 else (t.setWrPhase true).reply .quiet

/-- A data read in `READ_MEM` needs the 18-bit format; it cannot be found otherwise after `RAMRD`, and would be fatal
(R182; log 13). -/
def State.ifFormat18 (s : State) (f : State → State) : State :=
  if s.controlFormat = format18 then f s else s.raiseFatal

/-- Sub-step 0: red and green of pixel A, the cursor stays (R183). -/
def State.readStep0 (s : State) : State :=
  (s.setRdSub .r1).reply (.read (packRead .r0 s.getAtCursor 0))

/-- Sub-step 1: blue of A, the cursor advances, red of B (R184). -/
def State.readStep1 (s : State) : State :=
  (s.advanceCursor.setRdSub .r2).reply (.read (packRead .r1 s.getAtCursor s.advanceCursor.getAtCursor))

/-- Sub-step 2: green and blue of B, and the cursor advances again (R185). -/
def State.readStep2 (s : State) : State :=
  (s.advanceCursor.setRdSub .r0).reply (.read (packRead .r2 0 s.getAtCursor))

/-! ### Reset -/

/-- The default window, its ends exchanged when `MV = 1` (70_reset_and_hazards.md R301, R303). -/
def State.defaultWindow (s : State) : State :=
  { s with
    colStart := 0
    rowStart := 0
    colEnd := BitVec.ofNat 16 (if s.mv then s.cfg.H - 1 else s.cfg.W - 1)
    rowEnd := BitVec.ofNat 16 (if s.mv then s.cfg.W - 1 else s.cfg.H - 1) }

/-- `ResetRegisters()`: everything but the orientation, the framebuffer, `dirty` and `fatal` (R301, R302). -/
def State.resetRegisters (s : State) : State :=
  let t := { s with pstate := .idle, rdSub := .r0, wrPhase := false, shift16 := 0, gamma := 0 }
  ((t.defaultWindow.setCursor 0 0).loadFormat rstColmod).resetFlags

/-- What `POWER_ON` does to a state: the orientation first, then the registers, then the rest; the framebuffer has
new unspecified content (46_display_ctrl_top.md R255; log 5, log 17). -/
def State.powerOnReset (s : State) : State :=
  let t := ({ s with my := false, mx := false, mv := false } : State).resetRegisters
  { t with fatal := false, dirty := false, fb := [], powerOns := s.powerOns + 1, result := .quiet }

end Sys2Proof.Machine
end

