-- ==== Sys2Proof/Machine/CmdDispatcher.lean ====
section
/-! DEFINITION. cmd_dispatcher: the meanings of the 26 commands and of the unknown class (40_cmd_dispatcher.md). -/

namespace Sys2Proof.Machine

/-! ### Class a: flag commands (R149) -/

/-- `SLPIN`, sleep-in (R121). -/
def execSlpin (s : State) : Host.Outcome State Fault Refusal :=
  s.unlessFatal fun s => (s.setSleepIn true).reply .quiet

/-- `SLPOUT`, sleep-out (R122). -/
def execSlpout (s : State) : Host.Outcome State Fault Refusal :=
  s.unlessFatal fun s => (s.setSleepIn false).reply .quiet

/-- `INVOFF`, inversion off (R123). -/
def execInvoff (s : State) : Host.Outcome State Fault Refusal :=
  s.unlessFatal fun s => (s.setInversionOn false).reply .quiet

/-- `INVON`, inversion on (R124). -/
def execInvon (s : State) : Host.Outcome State Fault Refusal :=
  s.unlessFatal fun s => (s.setInversionOn true).reply .quiet

/-- `DISPOFF`, display off (R125). -/
def execDispoff (s : State) : Host.Outcome State Fault Refusal :=
  s.unlessFatal fun s => (s.setDisplayOn false).reply .quiet

/-- `DISPON`, display on (R126). -/
def execDispon (s : State) : Host.Outcome State Fault Refusal :=
  s.unlessFatal fun s => (s.setDisplayOn true).reply .quiet

/-- `TEOFF`, tearing-effect off (R127). -/
def execTeoff (s : State) : Host.Outcome State Fault Refusal :=
  s.unlessFatal fun s => (s.setTearingOn false).reply .quiet

/-- `TEON`, tearing-effect on, no parameter (R128). -/
def execTeon (s : State) : Host.Outcome State Fault Refusal :=
  s.unlessFatal fun s => (s.setTearingOn true).reply .quiet

/-- `IDMOFF`, idle-mode off (R129). -/
def execIdmoff (s : State) : Host.Outcome State Fault Refusal :=
  s.unlessFatal fun s => (s.setIdleOn false).reply .quiet

/-- `IDMON`, idle-mode on (R130). -/
def execIdmon (s : State) : Host.Outcome State Fault Refusal := s.unlessFatal fun s => (s.setIdleOn true).reply .quiet

/-! ### Class c: the reset command -/

/-- `SWRESET`, the reset command (R131). -/
def execSwreset (s : State) : Host.Outcome State Fault Refusal := s.unlessFatal fun s => s.resetRegisters.reply .quiet

/-! ### Class b: arming commands (R132) -/

/-- `RDDID` (R133). -/
def execRddid (s : State) : Host.Outcome State Fault Refusal := s.unlessFatal fun s => s.arm (.read .rddid .s0)

/-- `RDDST` (R134). -/
def execRddst (s : State) : Host.Outcome State Fault Refusal := s.unlessFatal fun s => s.arm (.read .rddst .s0)

/-- `RDDPM` (R135). -/
def execRddpm (s : State) : Host.Outcome State Fault Refusal := s.unlessFatal fun s => s.arm (.read .rddpm .s0)

/-- `RDDMADCTL` (R136). -/
def execRddmadctl (s : State) : Host.Outcome State Fault Refusal :=
  s.unlessFatal fun s => s.arm (.read .rddmadctl .s0)

/-- `RDDCOLMOD` (R137). -/
def execRddcolmod (s : State) : Host.Outcome State Fault Refusal :=
  s.unlessFatal fun s => s.arm (.read .rddcolmod .s0)

/-- `RDDIM` (R138). -/
def execRddim (s : State) : Host.Outcome State Fault Refusal := s.unlessFatal fun s => s.arm (.read .rddim .s0)

/-- `RDDSM` (R139). -/
def execRddsm (s : State) : Host.Outcome State Fault Refusal := s.unlessFatal fun s => s.arm (.read .rddsm .s0)

/-- `RDDSDR` (R140). -/
def execRddsdr (s : State) : Host.Outcome State Fault Refusal := s.unlessFatal fun s => s.arm (.read .rddsdr .s0)

/-- `GAMSET` (R141). -/
def execGamset (s : State) : Host.Outcome State Fault Refusal := s.unlessFatal fun s => s.arm .gamset0

/-- `CASET` (R142). -/
def execCaset (s : State) : Host.Outcome State Fault Refusal := s.unlessFatal fun s => s.arm (.caset .s0)

/-- `RASET` (R143). -/
def execRaset (s : State) : Host.Outcome State Fault Refusal := s.unlessFatal fun s => s.arm (.raset .s0)

/-- `MADCTL` (R146). -/
def execMadctl (s : State) : Host.Outcome State Fault Refusal := s.unlessFatal fun s => s.arm .madctl0

/-- `COLMOD` (R147). -/
def execColmod (s : State) : Host.Outcome State Fault Refusal := s.unlessFatal fun s => s.arm .colmod0

/-- `RAMWR`, memory-write; the pixel format is not checked (R144). -/
def execRamwr (s : State) : Host.Outcome State Fault Refusal :=
  s.unlessFatal fun s => (s.cursorToStart.setWrPhase false).arm .writeMem

/-- `RAMRD`, memory-read: the format is checked before any effect (R145; 90_conflicts.md C2). -/
def execRamrd (s : State) : Host.Outcome State Fault Refusal :=
  s.unlessFatal fun s => s.ifFormat18 fun s => (s.cursorToStart.setRdSub .r0).arm .readMem

/-! ### Unknown commands -/

/-- A byte without a row: `diag(UNIMPL_CMD, c)`, no field changes (R148). -/
def execUnknownCmd (c : Byte) (s : State) : Host.Outcome State Fault Refusal :=
  s.unlessFatal fun s => s.reply (.diagnose (.unimplCmd c))

end Sys2Proof.Machine
end

