-- ==== Sys2Proof/Machine/DataRead.lean ====
section
/-! DEFINITION. protocol_fsm, the meanings of the data reads (41_protocol_fsm.md R161 to R186). The decoder selects
the row by the protocol state; a meaning does not test it again (log 11). -/

namespace Sys2Proof.Machine

/-! ### read-display-id (R175) -/

/-- `DR.RDDID_0` (R175). -/
def execDrRddid0 (s : State) : Host.Outcome State Fault Refusal :=
  s.unlessFatal fun s => s.replyByte (displayIdByte s.cfg.displayId .s0) (nextRead .rddid .s0)

/-- `DR.RDDID_1` (R175). -/
def execDrRddid1 (s : State) : Host.Outcome State Fault Refusal :=
  s.unlessFatal fun s => s.replyByte (displayIdByte s.cfg.displayId .s1) (nextRead .rddid .s1)

/-- `DR.RDDID_2` (R175). -/
def execDrRddid2 (s : State) : Host.Outcome State Fault Refusal :=
  s.unlessFatal fun s => s.replyByte (displayIdByte s.cfg.displayId .s2) (nextRead .rddid .s2)

/-- `DR.RDDID_3` (R175). -/
def execDrRddid3 (s : State) : Host.Outcome State Fault Refusal :=
  s.unlessFatal fun s => s.replyByte (displayIdByte s.cfg.displayId .s3) (nextRead .rddid .s3)

/-! ### The seven other sequences (R176) -/

/-- `DR.RDDST_0` (R176). -/
def execDrRddst0 (s : State) : Host.Outcome State Fault Refusal :=
  s.unlessFatal fun s => s.replyOpen (nextRead .rddst .s0)

/-- `DR.RDDST_1` (R176). -/
def execDrRddst1 (s : State) : Host.Outcome State Fault Refusal :=
  s.unlessFatal fun s => s.replyOpen (nextRead .rddst .s1)

/-- `DR.RDDST_2` (R176). -/
def execDrRddst2 (s : State) : Host.Outcome State Fault Refusal :=
  s.unlessFatal fun s => s.replyOpen (nextRead .rddst .s2)

/-- `DR.RDDST_3` (R176). -/
def execDrRddst3 (s : State) : Host.Outcome State Fault Refusal :=
  s.unlessFatal fun s => s.replyOpen (nextRead .rddst .s3)

/-- `DR.RDDPM_0` (R176). -/
def execDrRddpm0 (s : State) : Host.Outcome State Fault Refusal :=
  s.unlessFatal fun s => s.replyOpen (nextRead .rddpm .s0)

/-- `DR.RDDPM_1` (R176). -/
def execDrRddpm1 (s : State) : Host.Outcome State Fault Refusal :=
  s.unlessFatal fun s => s.replyOpen (nextRead .rddpm .s1)

/-- `DR.RDDPM_2` (R176). -/
def execDrRddpm2 (s : State) : Host.Outcome State Fault Refusal :=
  s.unlessFatal fun s => s.replyOpen (nextRead .rddpm .s2)

/-- `DR.RDDPM_3` (R176). -/
def execDrRddpm3 (s : State) : Host.Outcome State Fault Refusal :=
  s.unlessFatal fun s => s.replyOpen (nextRead .rddpm .s3)

/-- `DR.RDDMADCTL_0` (R176). -/
def execDrRddmadctl0 (s : State) : Host.Outcome State Fault Refusal :=
  s.unlessFatal fun s => s.replyOpen (nextRead .rddmadctl .s0)

/-- `DR.RDDMADCTL_1` (R176). -/
def execDrRddmadctl1 (s : State) : Host.Outcome State Fault Refusal :=
  s.unlessFatal fun s => s.replyOpen (nextRead .rddmadctl .s1)

/-- `DR.RDDMADCTL_2` (R176). -/
def execDrRddmadctl2 (s : State) : Host.Outcome State Fault Refusal :=
  s.unlessFatal fun s => s.replyOpen (nextRead .rddmadctl .s2)

/-- `DR.RDDMADCTL_3` (R176). -/
def execDrRddmadctl3 (s : State) : Host.Outcome State Fault Refusal :=
  s.unlessFatal fun s => s.replyOpen (nextRead .rddmadctl .s3)

/-- `DR.RDDCOLMOD_0` (R176). -/
def execDrRddcolmod0 (s : State) : Host.Outcome State Fault Refusal :=
  s.unlessFatal fun s => s.replyOpen (nextRead .rddcolmod .s0)

/-- `DR.RDDCOLMOD_1` (R176). -/
def execDrRddcolmod1 (s : State) : Host.Outcome State Fault Refusal :=
  s.unlessFatal fun s => s.replyOpen (nextRead .rddcolmod .s1)

/-- `DR.RDDCOLMOD_2` (R176). -/
def execDrRddcolmod2 (s : State) : Host.Outcome State Fault Refusal :=
  s.unlessFatal fun s => s.replyOpen (nextRead .rddcolmod .s2)

/-- `DR.RDDCOLMOD_3` (R176). -/
def execDrRddcolmod3 (s : State) : Host.Outcome State Fault Refusal :=
  s.unlessFatal fun s => s.replyOpen (nextRead .rddcolmod .s3)

/-- `DR.RDDIM_0` (R176). -/
def execDrRddim0 (s : State) : Host.Outcome State Fault Refusal :=
  s.unlessFatal fun s => s.replyOpen (nextRead .rddim .s0)

/-- `DR.RDDIM_1` (R176). -/
def execDrRddim1 (s : State) : Host.Outcome State Fault Refusal :=
  s.unlessFatal fun s => s.replyOpen (nextRead .rddim .s1)

/-- `DR.RDDIM_2` (R176). -/
def execDrRddim2 (s : State) : Host.Outcome State Fault Refusal :=
  s.unlessFatal fun s => s.replyOpen (nextRead .rddim .s2)

/-- `DR.RDDIM_3` (R176). -/
def execDrRddim3 (s : State) : Host.Outcome State Fault Refusal :=
  s.unlessFatal fun s => s.replyOpen (nextRead .rddim .s3)

/-- `DR.RDDSM_0` (R176). -/
def execDrRddsm0 (s : State) : Host.Outcome State Fault Refusal :=
  s.unlessFatal fun s => s.replyOpen (nextRead .rddsm .s0)

/-- `DR.RDDSM_1` (R176). -/
def execDrRddsm1 (s : State) : Host.Outcome State Fault Refusal :=
  s.unlessFatal fun s => s.replyOpen (nextRead .rddsm .s1)

/-- `DR.RDDSM_2` (R176). -/
def execDrRddsm2 (s : State) : Host.Outcome State Fault Refusal :=
  s.unlessFatal fun s => s.replyOpen (nextRead .rddsm .s2)

/-- `DR.RDDSM_3` (R176). -/
def execDrRddsm3 (s : State) : Host.Outcome State Fault Refusal :=
  s.unlessFatal fun s => s.replyOpen (nextRead .rddsm .s3)

/-- `DR.RDDSDR_0` (R176). -/
def execDrRddsdr0 (s : State) : Host.Outcome State Fault Refusal :=
  s.unlessFatal fun s => s.replyOpen (nextRead .rddsdr .s0)

/-- `DR.RDDSDR_1` (R176). -/
def execDrRddsdr1 (s : State) : Host.Outcome State Fault Refusal :=
  s.unlessFatal fun s => s.replyOpen (nextRead .rddsdr .s1)

/-- `DR.RDDSDR_2` (R176). -/
def execDrRddsdr2 (s : State) : Host.Outcome State Fault Refusal :=
  s.unlessFatal fun s => s.replyOpen (nextRead .rddsdr .s2)

/-- `DR.RDDSDR_3` (R176). -/
def execDrRddsdr3 (s : State) : Host.Outcome State Fault Refusal :=
  s.unlessFatal fun s => s.replyOpen (nextRead .rddsdr .s3)

/-! ### The bulk state READ_MEM (R182) -/

/-- `DR.READ_MEM.0` (R183). -/
def execDrReadMem0 (s : State) : Host.Outcome State Fault Refusal :=
  s.unlessFatal fun s => s.ifFormat18 State.readStep0

/-- `DR.READ_MEM.1` (R184). -/
def execDrReadMem1 (s : State) : Host.Outcome State Fault Refusal :=
  s.unlessFatal fun s => s.ifFormat18 State.readStep1

/-- `DR.READ_MEM.2` (R185). -/
def execDrReadMem2 (s : State) : Host.Outcome State Fault Refusal :=
  s.unlessFatal fun s => s.ifFormat18 State.readStep2

/-! ### Unexpected data reads -/

/-- `DR.IGNORED` (R162). -/
def execDrIgnored (s : State) : Host.Outcome State Fault Refusal := s.unlessFatal fun s => s.ignoreData

end Sys2Proof.Machine
end

