-- ==== Sys2Proof/Machine/DataWrite.lean ====
section
/-! DEFINITION. protocol_fsm, the meanings of the data writes (41_protocol_fsm.md R160 to R181). The decoder selects
the row by the protocol state; a meaning does not test it again (log 11). -/

namespace Sys2Proof.Machine

/-! ### Window bytes (R164) -/

/-- `DW.CASET_0` (R165). -/
def execDwCaset0 (b : Byte) (s : State) : Host.Outcome State Fault Refusal :=
  s.unlessFatal fun s => (s.shift8 b).arm (.caset .s1)

/-- `DW.CASET_1` (R166). -/
def execDwCaset1 (b : Byte) (s : State) : Host.Outcome State Fault Refusal :=
  s.unlessFatal fun s => ((s.shift8 b).loadColStart (s.shift8 b).shift16).arm (.caset .s2)

/-- `DW.CASET_2` (R167). -/
def execDwCaset2 (b : Byte) (s : State) : Host.Outcome State Fault Refusal :=
  s.unlessFatal fun s => (s.shift8 b).arm (.caset .s3)

/-- `DW.CASET_3` (R168). -/
def execDwCaset3 (b : Byte) (s : State) : Host.Outcome State Fault Refusal :=
  s.unlessFatal fun s => ((s.shift8 b).loadColEnd (s.shift8 b).shift16).arm .idle

/-- `DW.RASET_0` (R169). -/
def execDwRaset0 (b : Byte) (s : State) : Host.Outcome State Fault Refusal :=
  s.unlessFatal fun s => (s.shift8 b).arm (.raset .s1)

/-- `DW.RASET_1` (R170). -/
def execDwRaset1 (b : Byte) (s : State) : Host.Outcome State Fault Refusal :=
  s.unlessFatal fun s => ((s.shift8 b).loadRowStart (s.shift8 b).shift16).arm (.raset .s2)

/-- `DW.RASET_2` (R171). -/
def execDwRaset2 (b : Byte) (s : State) : Host.Outcome State Fault Refusal :=
  s.unlessFatal fun s => (s.shift8 b).arm (.raset .s3)

/-- `DW.RASET_3` (R172). -/
def execDwRaset3 (b : Byte) (s : State) : Host.Outcome State Fault Refusal :=
  s.unlessFatal fun s => ((s.shift8 b).loadRowEnd (s.shift8 b).shift16).arm .idle

/-! ### One-byte sequences -/

/-- `DW.MADCTL_0` (R173). -/
def execDwMadctl0 (b : Byte) (s : State) : Host.Outcome State Fault Refusal :=
  s.unlessFatal fun s => (s.loadOrientation b).arm .idle

/-- `DW.COLMOD_0` (R174). -/
def execDwColmod0 (b : Byte) (s : State) : Host.Outcome State Fault Refusal :=
  s.unlessFatal fun s => (s.loadFormat b).arm .idle

/-- `DW.GAMSET_0` (R177). -/
def execDwGamset0 (b : Byte) (s : State) : Host.Outcome State Fault Refusal :=
  s.unlessFatal fun s => (s.loadGamma b).arm .idle

/-! ### The bulk state WRITE_MEM -/

/-- `DW.WRITE_MEM`, one wire pixel (R180). -/
def execDwWriteMem (p : Word) (s : State) : Host.Outcome State Fault Refusal := s.unlessFatal fun s => s.writePixel p

/-- `DW.WRITE_MEM.BEATS2`, half a wire pixel (R181). -/
def execDwWriteMemBeats2 (b : Byte) (s : State) : Host.Outcome State Fault Refusal :=
  s.unlessFatal fun s => s.writeHalf b

/-! ### Unexpected data writes -/

/-- `DW.IGNORED` (R162). -/
def execDwIgnored (_w : Word) (s : State) : Host.Outcome State Fault Refusal := s.unlessFatal fun s => s.ignoreData

end Sys2Proof.Machine
end

