-- ==== Sys2Proof/Machine/TopLevel.lean ====
section
/-! DEFINITION. The top level: unmapped accesses and the three signals (46_display_ctrl_top.md). -/

namespace Sys2Proof.Machine

/-- `UNMAPPED(off, we, wdata)`: `rdata` 0, no field changes, `diag(UNIMPL_OFFSET, off)` (R253; 20_memory.md R67). -/
def execUnmapped (off : Nat) (_we : Bool) (_wdata : Word) (s : State) : Host.Outcome State Fault Refusal :=
  s.unlessFatal fun s => s.reply (.diagnose (.unimplOffset off))

/-- `EXT_RESET`, the same procedure as `SWRESET` (R256). -/
def execExtReset (s : State) : Host.Outcome State Fault Refusal :=
  s.unlessFatal fun s => s.resetRegisters.reply .quiet

/-- `POWER_ON`, the one operation accepted while `fatal = 1` (R255). -/
def execPowerOn (s : State) : Host.Outcome State Fault Refusal := .next s.powerOnReset

/-- `PAINT`: a full copy, and the dirty marker is consumed (R258). -/
def execPaint (s : State) : Host.Outcome State Fault Refusal :=
  s.unlessFatal fun s => s.clearDirty.reply (.painted s.bulkCopy)

end Sys2Proof.Machine
end

