-- ==== Sys2Proof/Machine/Dispatch.lean ====
section
/-! DEFINITION. `exec`: one arm per instruction. -/

namespace Sys2Proof.Machine

def exec (i : Instr) (s : State) : Host.Outcome State Fault Refusal :=
  match i with
  | .swreset => Sys2Proof.Machine.execSwreset s
  | .rddid => Sys2Proof.Machine.execRddid s
  | .rddst => Sys2Proof.Machine.execRddst s
  | .rddpm => Sys2Proof.Machine.execRddpm s
  | .rddmadctl => Sys2Proof.Machine.execRddmadctl s
  | .rddcolmod => Sys2Proof.Machine.execRddcolmod s
  | .rddim => Sys2Proof.Machine.execRddim s
  | .rddsm => Sys2Proof.Machine.execRddsm s
  | .rddsdr => Sys2Proof.Machine.execRddsdr s
  | .slpin => Sys2Proof.Machine.execSlpin s
  | .slpout => Sys2Proof.Machine.execSlpout s
  | .invoff => Sys2Proof.Machine.execInvoff s
  | .invon => Sys2Proof.Machine.execInvon s
  | .gamset => Sys2Proof.Machine.execGamset s
  | .dispoff => Sys2Proof.Machine.execDispoff s
  | .dispon => Sys2Proof.Machine.execDispon s
  | .caset => Sys2Proof.Machine.execCaset s
  | .raset => Sys2Proof.Machine.execRaset s
  | .ramwr => Sys2Proof.Machine.execRamwr s
  | .ramrd => Sys2Proof.Machine.execRamrd s
  | .teoff => Sys2Proof.Machine.execTeoff s
  | .teon => Sys2Proof.Machine.execTeon s
  | .madctl => Sys2Proof.Machine.execMadctl s
  | .idmoff => Sys2Proof.Machine.execIdmoff s
  | .idmon => Sys2Proof.Machine.execIdmon s
  | .colmod => Sys2Proof.Machine.execColmod s
  | .unknownCmd c => Sys2Proof.Machine.execUnknownCmd c s
  | .dwCaset0 b => Sys2Proof.Machine.execDwCaset0 b s
  | .dwCaset1 b => Sys2Proof.Machine.execDwCaset1 b s
  | .dwCaset2 b => Sys2Proof.Machine.execDwCaset2 b s
  | .dwCaset3 b => Sys2Proof.Machine.execDwCaset3 b s
  | .dwRaset0 b => Sys2Proof.Machine.execDwRaset0 b s
  | .dwRaset1 b => Sys2Proof.Machine.execDwRaset1 b s
  | .dwRaset2 b => Sys2Proof.Machine.execDwRaset2 b s
  | .dwRaset3 b => Sys2Proof.Machine.execDwRaset3 b s
  | .dwMadctl0 b => Sys2Proof.Machine.execDwMadctl0 b s
  | .dwColmod0 b => Sys2Proof.Machine.execDwColmod0 b s
  | .dwGamset0 b => Sys2Proof.Machine.execDwGamset0 b s
  | .dwWriteMem p => Sys2Proof.Machine.execDwWriteMem p s
  | .dwWriteMemBeats2 b => Sys2Proof.Machine.execDwWriteMemBeats2 b s
  | .dwIgnored w => Sys2Proof.Machine.execDwIgnored w s
  | .drRddid0 => Sys2Proof.Machine.execDrRddid0 s
  | .drRddid1 => Sys2Proof.Machine.execDrRddid1 s
  | .drRddid2 => Sys2Proof.Machine.execDrRddid2 s
  | .drRddid3 => Sys2Proof.Machine.execDrRddid3 s
  | .drRddst0 => Sys2Proof.Machine.execDrRddst0 s
  | .drRddst1 => Sys2Proof.Machine.execDrRddst1 s
  | .drRddst2 => Sys2Proof.Machine.execDrRddst2 s
  | .drRddst3 => Sys2Proof.Machine.execDrRddst3 s
  | .drRddpm0 => Sys2Proof.Machine.execDrRddpm0 s
  | .drRddpm1 => Sys2Proof.Machine.execDrRddpm1 s
  | .drRddpm2 => Sys2Proof.Machine.execDrRddpm2 s
  | .drRddpm3 => Sys2Proof.Machine.execDrRddpm3 s
  | .drRddmadctl0 => Sys2Proof.Machine.execDrRddmadctl0 s
  | .drRddmadctl1 => Sys2Proof.Machine.execDrRddmadctl1 s
  | .drRddmadctl2 => Sys2Proof.Machine.execDrRddmadctl2 s
  | .drRddmadctl3 => Sys2Proof.Machine.execDrRddmadctl3 s
  | .drRddcolmod0 => Sys2Proof.Machine.execDrRddcolmod0 s
  | .drRddcolmod1 => Sys2Proof.Machine.execDrRddcolmod1 s
  | .drRddcolmod2 => Sys2Proof.Machine.execDrRddcolmod2 s
  | .drRddcolmod3 => Sys2Proof.Machine.execDrRddcolmod3 s
  | .drRddim0 => Sys2Proof.Machine.execDrRddim0 s
  | .drRddim1 => Sys2Proof.Machine.execDrRddim1 s
  | .drRddim2 => Sys2Proof.Machine.execDrRddim2 s
  | .drRddim3 => Sys2Proof.Machine.execDrRddim3 s
  | .drRddsm0 => Sys2Proof.Machine.execDrRddsm0 s
  | .drRddsm1 => Sys2Proof.Machine.execDrRddsm1 s
  | .drRddsm2 => Sys2Proof.Machine.execDrRddsm2 s
  | .drRddsm3 => Sys2Proof.Machine.execDrRddsm3 s
  | .drRddsdr0 => Sys2Proof.Machine.execDrRddsdr0 s
  | .drRddsdr1 => Sys2Proof.Machine.execDrRddsdr1 s
  | .drRddsdr2 => Sys2Proof.Machine.execDrRddsdr2 s
  | .drRddsdr3 => Sys2Proof.Machine.execDrRddsdr3 s
  | .drReadMem0 => Sys2Proof.Machine.execDrReadMem0 s
  | .drReadMem1 => Sys2Proof.Machine.execDrReadMem1 s
  | .drReadMem2 => Sys2Proof.Machine.execDrReadMem2 s
  | .drIgnored => Sys2Proof.Machine.execDrIgnored s
  | .unmapped off we wdata => Sys2Proof.Machine.execUnmapped off we wdata s
  | .extReset => Sys2Proof.Machine.execExtReset s
  | .powerOn => Sys2Proof.Machine.execPowerOn s
  | .paint => Sys2Proof.Machine.execPaint s

end Sys2Proof.Machine
end

