-- ==== Sys2Proof/Machine/Step.lean ====
section
/-! DEFINITION. One step: the oldest presented operation is taken, decoded and executed. -/

namespace Sys2Proof.Machine

/-- One step. With nothing presented the block waits and nothing changes; otherwise the oldest presented operation
is one atomic transition (20_memory.md R70, R71; log 1). -/
def step (s : State) : Host.Outcome State Fault Refusal :=
  match s.pending with
  | [] => .next s
  | op :: rest =>
    match decode s.cfg s.pstate s.rdSub op with
    | .ok i => exec i { s with pending := rest }
    | .error (.offsetOutsideBusSpace off) => .fault (.offsetOutsideBusSpace off)

/-- Put an operation where `step` takes the next one, in the protocol state that selects the row. -/
def State.withRequest (s : State) (r : TableRequest) : State :=
  { s with
    pending := r.op :: s.pending
    pstate := r.selectedBy.getD s.pstate
    rdSub := if r.selectedBy = some .readMem then .r0 else s.rdSub }

/-- The instruction of a number of the table, presented as the next operation (log 9). -/
def State.withFetchWord (s : State) (nbits w : Nat) : State :=
  match tableRequest s.cfg nbits w with
  | none => s
  | some r => s.withRequest r

end Sys2Proof.Machine
end

