-- ==== Sys2Proof/Safety.lean ====
section
/-! DEFINITION. What a good state is, and the invariant every step keeps. -/

namespace Sys2Proof.Machine

/-- A state the block can be in: the configuration meets its constraints, the framebuffer is canonical, lists only
cells of the panel and only cells the block can have stored, `READ_MEM` implies the 18-bit format, and `wr_phase` is
used only with `PIXEL_BEATS = 2`. -/
structure Inv (s : State) : Prop where
  cfgWf      : s.cfg.wf = true
  fbCanon    : s.fb.wf = true
  fbInPanel  : ∀ i c, (i, c) ∈ s.fb → i < s.cfg.W * s.cfg.H
  fbEncoded  : ∀ i c, (i, c) ∈ s.fb → isEncoded c = true
  readFormat : s.pstate = .readMem → s.controlFormat = format18
  beatsPhase : s.cfg.pixelBeats = .one → s.wrPhase = false

/-- On one axis, the cursor lies in a proper window, and at the start of an inverted one. -/
def inWindow (a e c : Word) : Prop :=
  (a.toNat ≤ e.toNat → a.toNat ≤ c.toNat ∧ c.toNat ≤ e.toNat) ∧ (e.toNat < a.toNat → c = a)

/-- In a bulk state the cursor is where a walk from the window start can be (42_address_window.md R204 (d), (e)). -/
def bulkCursorInWindow (s : State) : Prop :=
  (s.pstate = .writeMem ∨ s.pstate = .readMem) →
    inWindow s.colStart s.colEnd s.cursorCol ∧ inWindow s.rowStart s.rowEnd s.cursorRow

/-- The state with everything wiped that the spec says no operation reads: the five mode flags (10_state.md R40),
`gamma` (R32), `interface_format` (R36) and `dirty` (R42). -/
def State.wipeUnread (s : State) : State :=
  { s with
    sleepIn := false, displayOn := false, tearingOn := false, inversionOn := false, idleOn := false
    gamma := 0, interfaceFormat := 0, dirty := false }

/-- Where an arming command puts `pstate` (30_encoding.md R92, 41_protocol_fsm.md R178 (1)). -/
def armTarget : Instr → Option PState
  | .rddid => some (.read .rddid .s0)
  | .rddst => some (.read .rddst .s0)
  | .rddpm => some (.read .rddpm .s0)
  | .rddmadctl => some (.read .rddmadctl .s0)
  | .rddcolmod => some (.read .rddcolmod .s0)
  | .rddim => some (.read .rddim .s0)
  | .rddsm => some (.read .rddsm .s0)
  | .rddsdr => some (.read .rddsdr .s0)
  | .gamset => some .gamset0
  | .caset => some (.caset .s0)
  | .raset => some (.raset .s0)
  | .ramwr => some .writeMem
  | .ramrd => some .readMem
  | .madctl => some .madctl0
  | .colmod => some .colmod0
  | .swreset | .slpin | .slpout | .invoff | .invon | .dispoff | .dispon | .teoff | .teon | .idmoff | .idmon
  | .unknownCmd _ | .dwCaset0 _ | .dwCaset1 _ | .dwCaset2 _ | .dwCaset3 _ | .dwRaset0 _ | .dwRaset1 _
  | .dwRaset2 _ | .dwRaset3 _ | .dwMadctl0 _ | .dwColmod0 _ | .dwGamset0 _ | .dwWriteMem _
  | .dwWriteMemBeats2 _ | .dwIgnored _ | .drRddid0 | .drRddid1 | .drRddid2 | .drRddid3 | .drRddst0
  | .drRddst1 | .drRddst2 | .drRddst3 | .drRddpm0 | .drRddpm1 | .drRddpm2 | .drRddpm3 | .drRddmadctl0
  | .drRddmadctl1 | .drRddmadctl2 | .drRddmadctl3 | .drRddcolmod0 | .drRddcolmod1 | .drRddcolmod2
  | .drRddcolmod3 | .drRddim0 | .drRddim1 | .drRddim2 | .drRddim3 | .drRddsm0 | .drRddsm1 | .drRddsm2
  | .drRddsm3 | .drRddsdr0 | .drRddsdr1 | .drRddsdr2 | .drRddsdr3 | .drReadMem0 | .drReadMem1 | .drReadMem2
  | .drIgnored | .unmapped _ _ _ | .extReset | .powerOn | .paint => none

/-- The sub-state after another, none after the fourth. -/
def SubState.succ? : SubState → Option SubState
  | .s0 => some .s1
  | .s1 => some .s2
  | .s2 => some .s3
  | .s3 => none

/-- Where a consumed data access moves `pstate`: a finite sequence one step, its last step to `IDLE`, a bulk state
nowhere (R178 (3), (4)). -/
def stateAfterAccess : PState → PState
  | .idle => .idle
  | .read q k => ((SubState.succ? k).map (.read q)).getD .idle
  | .caset k => ((SubState.succ? k).map .caset).getD .idle
  | .raset k => ((SubState.succ? k).map .raset).getD .idle
  | .gamset0 => .idle
  | .madctl0 => .idle
  | .colmod0 => .idle
  | .writeMem => .writeMem
  | .readMem => .readMem

/-- A data access in the direction the state expects. -/
def accessConsumed (ps : PState) (we : Bool) : Bool := if we then !ignoresWrite ps else !ignoresRead ps

/-- Instructions one after the other, stopping at the first that stops. -/
def execAll : List Instr → State → Host.Outcome State Fault Refusal
  | [], s => .next s
  | i :: is, s =>
    match exec i s with
    | .next t => execAll is t
    | .fault r => .fault r
    | .refused r => .refused r

/-- A state with `fatal = 1` is a fault state, never a good final state (00_scope.md R15, 60_exceptions.md R275). -/
def State.good (s : State) : Prop := s.fatal = false

/-- `n` steps from `s` end in a good state: no step stopped, and no fatal fault was raised. -/
def safeRun : Nat → State → Prop
  | 0, s => s.good
  | n + 1, s =>
    match step s with
    | .next t => safeRun n t
    | .fault _ => False
    | .refused _ => False

end Sys2Proof.Machine
end

