-- ==== Sys2Proof/Certificates/Slice0/Obligations.lean ====
section
/-! DEFINITION. The statements for the provers. "stated" ones formalise a numbered rule; the others name the section
and the decision they rest on. The model's own fields are named where a statement touches them. -/

open Sys2Proof Sys2Proof.Machine

/-! ### Reset and power-on -/

/-- 10_state.md R50, column `POWER_ON`, with 70_reset_and_hazards.md R301: the reset state, field by field. The
values are the spec's decisions D11 to D14, D20, D28, D30 (log 14); the configuration (log 3) and the model's own
`pending`, `result`, `draws`, `powerOns` are the model's choices (log 1, 2, 4, 5). -/
def Obligations.ResetStateFieldByField : Prop :=
  State.reset.pstate = .idle ∧ State.reset.rdSub = .r0 ∧ State.reset.wrPhase = false ∧
  State.reset.shift16 = 0 ∧ State.reset.colStart = 0 ∧ State.reset.rowStart = 0 ∧
  State.reset.colEnd.toNat + 1 = State.reset.cfg.W ∧ State.reset.rowEnd.toNat + 1 = State.reset.cfg.H ∧
  State.reset.cursorCol = 0 ∧ State.reset.cursorRow = 0 ∧ State.reset.gamma = 0 ∧
  State.reset.my = false ∧ State.reset.mx = false ∧ State.reset.mv = false ∧
  State.reset.interfaceFormat = 0b110#3 ∧ State.reset.controlFormat = 0b110#3 ∧
  State.reset.sleepIn = true ∧ State.reset.displayOn = false ∧ State.reset.tearingOn = false ∧
  State.reset.inversionOn = false ∧ State.reset.idleOn = false ∧
  State.reset.dirty = false ∧ State.reset.fatal = false ∧ State.reset.fb = []

/-- 46_display_ctrl_top.md R255: `POWER_ON` from any state, a fatal one included, gives the state after power-on of the
same configuration (decisions D13, D31). The model's `pending`, `draws` and `powerOns` go on (log 17). -/
def Obligations.PowerOnFromAnyState : Prop :=
  ∀ s : State, exec .powerOn s = .next
    { State.afterPowerOn s.cfg with
      pending := s.pending, draws := s.draws, powerOns := s.powerOns + 1 }

/-- 70_reset_and_hazards.md R301, R302: `SWRESET` and `EXT_RESET` do the same thing, register by register, and keep the
orientation, the framebuffer, `dirty` and `fatal` (decisions D11 to D13, D28, D30; log 14). -/
def Obligations.ResetReinitialisesRegisters : Prop :=
  ∀ s : State, s.fatal = false →
    ∀ i ∈ [Instr.swreset, Instr.extReset], exec i s = .next
      { s with
        pstate := .idle, rdSub := .r0, wrPhase := false, shift16 := 0
        colStart := 0, rowStart := 0
        colEnd := BitVec.ofNat 16 (if s.mv then s.cfg.H - 1 else s.cfg.W - 1)
        rowEnd := BitVec.ofNat 16 (if s.mv then s.cfg.W - 1 else s.cfg.H - 1)
        cursorCol := 0, cursorRow := 0, gamma := 0
        interfaceFormat := 0b110#3, controlFormat := 0b110#3
        sleepIn := true, displayOn := false, tearingOn := false, inversionOn := false, idleOn := false
        result := .quiet }

/-- 70_reset_and_hazards.md R303: after any reset the window is the default shape that matches `MV`, both starts 0;
after `POWER_ON` `MV` is 0; a later `MADCTL` byte does not re-establish the shape. -/
def Obligations.DefaultWindowMatchesRowExchange : Prop :=
  (∀ s : State, s.cfg.wf = true → s.fatal = false →
    ∀ i ∈ [Instr.swreset, Instr.extReset, Instr.powerOn], ∃ t, exec i s = .next t ∧
      t.colStart.toNat = 0 ∧ t.rowStart.toNat = 0 ∧
      (t.mv = false → t.colEnd.toNat = t.cfg.W - 1 ∧ t.rowEnd.toNat = t.cfg.H - 1) ∧
      (t.mv = true → t.colEnd.toNat = t.cfg.H - 1 ∧ t.rowEnd.toNat = t.cfg.W - 1) ∧
      (i = .powerOn → t.mv = false)) ∧
  (∀ (s : State) (b : Byte), ∃ t, exec (.dwMadctl0 b) s = .next t ∧
      t.colStart = s.colStart ∧ t.colEnd = s.colEnd ∧ t.rowStart = s.rowStart ∧ t.rowEnd = s.rowEnd)

/-! ### Commands -/

/-- 40_cmd_dispatcher.md R126: a write of `0x29` at `OFF_CMD` is `DISPON` in every protocol state; it sets
`display_on` and changes nothing else. -/
def Obligations.DisplayOnSetsOnlyItsFlag : Prop :=
  (∀ (cfg : Config) (ps : PState) (rs : RdSub) (w : Word), cfg.wf = true → w.toNat % 256 = 0x29 →
    decode cfg ps rs (.bus cfg.offCmd true w) = .ok .dispon) ∧
  (∀ s : State, s.fatal = false → exec .dispon s = .next { s with displayOn := true, result := .quiet })

/-- 40_cmd_dispatcher.md R121 to R130, R149: each flag command writes its one flag and nothing else, `pstate` included
(that this holds of all ten is decision D32, that `TEON` takes no parameter D33; log 21). -/
def Obligations.FlagCommandsWriteOneFlag : Prop :=
  ∀ s : State, s.fatal = false →
    exec .slpin s = .next { s with sleepIn := true, result := .quiet } ∧
    exec .slpout s = .next { s with sleepIn := false, result := .quiet } ∧
    exec .invon s = .next { s with inversionOn := true, result := .quiet } ∧
    exec .invoff s = .next { s with inversionOn := false, result := .quiet } ∧
    exec .dispon s = .next { s with displayOn := true, result := .quiet } ∧
    exec .dispoff s = .next { s with displayOn := false, result := .quiet } ∧
    exec .teon s = .next { s with tearingOn := true, result := .quiet } ∧
    exec .teoff s = .next { s with tearingOn := false, result := .quiet } ∧
    exec .idmon s = .next { s with idleOn := true, result := .quiet } ∧
    exec .idmoff s = .next { s with idleOn := false, result := .quiet }

/-- 40_cmd_dispatcher.md R132: an arming command overwrites `pstate` with the first sub-state of its sequence whatever
it held, and writes no flag, window register, `shift16`, `gamma`, orientation or format; only `RAMWR` and `RAMRD` touch
the cursor (and zero their own sub-counters, R144, R145). -/
def Obligations.ArmingCommandsOverwriteTheState : Prop :=
  ∀ s : State, s.fatal = false →
    (∀ r ∈ [(Instr.rddid, PState.read .rddid .s0), (.rddst, .read .rddst .s0), (.rddpm, .read .rddpm .s0),
            (.rddmadctl, .read .rddmadctl .s0), (.rddcolmod, .read .rddcolmod .s0), (.rddim, .read .rddim .s0),
            (.rddsm, .read .rddsm .s0), (.rddsdr, .read .rddsdr .s0), (.gamset, .gamset0),
            (.caset, .caset .s0), (.raset, .raset .s0), (.madctl, .madctl0), (.colmod, .colmod0)],
      exec r.1 s = .next { s with pstate := r.2, result := .quiet }) ∧
    (∃ c r, exec .ramwr s = .next
      { s with pstate := .writeMem, cursorCol := c, cursorRow := r, wrPhase := false, result := .quiet }) ∧
    (s.controlFormat = 0b110#3 → ∃ c r, exec .ramrd s = .next
      { s with pstate := .readMem, cursorCol := c, cursorRow := r, rdSub := .r0, result := .quiet })

/-- 40_cmd_dispatcher.md R144, 42_address_window.md R202: `RAMWR` puts the cursor at the window start and arms
`WRITE_MEM`; the pixel format is not checked. -/
def Obligations.MemoryWriteCommandArms : Prop :=
  ∀ s : State, s.fatal = false → exec .ramwr s = .next
    { s with
      cursorCol := s.colStart, cursorRow := s.rowStart, wrPhase := false, pstate := .writeMem
      result := .quiet }

/-- 40_cmd_dispatcher.md R145, 60_exceptions.md R275: `RAMRD` in the 18-bit format puts the cursor at the window start
and arms `READ_MEM`; in any other format it sets `fatal` and nothing else (decision D14; log 7). -/
def Obligations.MemoryReadCommandArmsOrFaults : Prop :=
  ∀ s : State, s.fatal = false →
    (s.controlFormat = 0b110#3 → exec .ramrd s = .next
      { s with
        cursorCol := s.colStart, cursorRow := s.rowStart, rdSub := .r0, pstate := .readMem
        result := .quiet }) ∧
    (s.controlFormat ≠ 0b110#3 → exec .ramrd s = .next { s with fatal := true, result := .quiet })

/-- 40_cmd_dispatcher.md R148, 30_encoding.md R94: a byte without a row is an unknown command; it changes no field and
is reported (that `0x00` is one of them is decision D22; log 21). -/
def Obligations.UnknownCommandIsReportedOnly : Prop :=
  (∀ (cfg : Config) (ps : PState) (rs : RdSub) (w : Word), cfg.wf = true →
    BitVec.ofNat 8 w.toNat ∉ knownOpcodes →
    decode cfg ps rs (.bus cfg.offCmd true w) = .ok (.unknownCmd (BitVec.ofNat 8 w.toNat))) ∧
  (∀ (s : State) (c : Byte), s.fatal = false →
    exec (.unknownCmd c) s = .next { s with result := ⟨0, .unimplCmd c, false, none⟩ })

/-! ### Parameter bytes -/

/-- 41_protocol_fsm.md R164 to R172: the eight window bytes, selected by the protocol state, `wdata[15:8]` ignored. The
start is loaded at the second byte and the end at the fourth, from the two bytes shifted in; nothing else changes. -/
def Obligations.WindowBytesLoadTheWindow : Prop :=
  (∀ (cfg : Config) (rs : RdSub) (w : Word), cfg.wf = true →
    ∀ r ∈ [(PState.caset .s0, Instr.dwCaset0), (.caset .s1, .dwCaset1), (.caset .s2, .dwCaset2),
           (.caset .s3, .dwCaset3), (.raset .s0, .dwRaset0), (.raset .s1, .dwRaset1),
           (.raset .s2, .dwRaset2), (.raset .s3, .dwRaset3)],
      decode cfg r.1 rs (.bus cfg.offData true w) = .ok (r.2 (BitVec.ofNat 8 w.toNat))) ∧
  (∀ (s : State) (b : Byte) (sh : Word), s.fatal = false →
    sh = BitVec.ofNat 16 (s.shift16.toNat * 256 + b.toNat) →
    exec (.dwCaset0 b) s = .next { s with shift16 := sh, pstate := .caset .s1, result := .quiet } ∧
    exec (.dwCaset1 b) s = .next { s with shift16 := sh, colStart := sh, pstate := .caset .s2, result := .quiet } ∧
    exec (.dwCaset2 b) s = .next { s with shift16 := sh, pstate := .caset .s3, result := .quiet } ∧
    exec (.dwCaset3 b) s = .next { s with shift16 := sh, colEnd := sh, pstate := .idle, result := .quiet } ∧
    exec (.dwRaset0 b) s = .next { s with shift16 := sh, pstate := .raset .s1, result := .quiet } ∧
    exec (.dwRaset1 b) s = .next { s with shift16 := sh, rowStart := sh, pstate := .raset .s2, result := .quiet } ∧
    exec (.dwRaset2 b) s = .next { s with shift16 := sh, pstate := .raset .s3, result := .quiet } ∧
    exec (.dwRaset3 b) s = .next { s with shift16 := sh, rowEnd := sh, pstate := .idle, result := .quiet })

/-- 30_encoding.md R96, R97, 20_memory.md R60, 41_protocol_fsm.md R163: the four bytes of a window sequence, high byte
first, give both 16-bit fields whatever `shift16` held before. -/
def Obligations.WindowSequenceAssemblesHighByteFirst : Prop :=
  ∀ (s : State) (b1 b2 b3 b4 : Byte), s.fatal = false →
    (∃ t, execAll [.caset, .dwCaset0 b1, .dwCaset1 b2, .dwCaset2 b3, .dwCaset3 b4] s = .next t ∧
      t.colStart.toNat = b1.toNat * 256 + b2.toNat ∧ t.colEnd.toNat = b3.toNat * 256 + b4.toNat ∧
      t.pstate = .idle ∧
      t = { s with colStart := t.colStart, colEnd := t.colEnd, shift16 := t.colEnd, pstate := .idle, result := .quiet }) ∧
    (∃ t, execAll [.raset, .dwRaset0 b1, .dwRaset1 b2, .dwRaset2 b3, .dwRaset3 b4] s = .next t ∧
      t.rowStart.toNat = b1.toNat * 256 + b2.toNat ∧ t.rowEnd.toNat = b3.toNat * 256 + b4.toNat ∧
      t.pstate = .idle ∧
      t = { s with rowStart := t.rowStart, rowEnd := t.rowEnd, shift16 := t.rowEnd, pstate := .idle, result := .quiet })

/-- 41_protocol_fsm.md R173, R174, R177: the bytes of memory-access-control, pixel-format-set and gamma-set load their
registers and end the sequence. The bit positions are decisions D5 and D6, the gamma register D11 (log 15, 14). -/
def Obligations.ControlBytesLoadTheirRegisters : Prop :=
  ∀ (s : State) (b : Byte), s.fatal = false →
    exec (.dwMadctl0 b) s = .next
      { s with
        my := decide (b.toNat / 128 % 2 = 1), mx := decide (b.toNat / 64 % 2 = 1)
        mv := decide (b.toNat / 32 % 2 = 1), pstate := .idle, result := .quiet } ∧
    exec (.dwColmod0 b) s = .next
      { s with
        interfaceFormat := BitVec.ofNat 3 (b.toNat / 16), controlFormat := BitVec.ofNat 3 b.toNat
        pstate := .idle, result := .quiet } ∧
    exec (.dwGamset0 b) s = .next { s with gamma := b, pstate := .idle, result := .quiet }

/-- 20_memory.md R61, 30_encoding.md R90 (U11; decisions D1, D34): `wdata[15:8]` of a command write, and of a data write
outside a one-beat `WRITE_MEM` and outside the ignored accesses, decides nothing. -/
def Obligations.UpperByteOfParametersIgnored : Prop :=
  ∀ (cfg : Config) (ps : PState) (rs : RdSub) (w w' : Word), cfg.wf = true → w.toNat % 256 = w'.toNat % 256 →
    decode cfg ps rs (.bus cfg.offCmd true w) = decode cfg ps rs (.bus cfg.offCmd true w') ∧
    (ignoresWrite ps = false → (ps = .writeMem → cfg.pixelBeats = .two) →
      decode cfg ps rs (.bus cfg.offData true w) = decode cfg ps rs (.bus cfg.offData true w'))

/-! ### Writing pixels -/

/-- 41_protocol_fsm.md R180, 45_framebuffer_memory.md R236, 60_exceptions.md R273: a pixel at a valid cursor position is
stored as a whole cell with `dirty` and `invalidate`, every other cell of the panel reads as before; at an invalid
position nothing is stored; the cursor advances either way (decisions D2, D15, D16, D20; log 12, 21). -/
def Obligations.PixelWriteStoresOrDrops : Prop :=
  ∀ (s : State) (p : Word), s.fatal = false →
    (∀ x y, s.cursorPosition = some (x, y) → ∃ t, exec (.dwWriteMem p) s = .next t ∧
      t = { s with
        fb := s.fb.write (s.cellIndex x y) (encode565 p), dirty := true
        cursorCol := s.advanceCursor.cursorCol, cursorRow := s.advanceCursor.cursorRow
        result := ⟨0, .none, true, none⟩ } ∧
      t.fbGet x y = encode565 p ∧
      (∀ x' y', x' < s.cfg.W → (x', y') ≠ (x, y) → t.fbGet x' y' = s.fbGet x' y')) ∧
    (s.cursorPosition = none → exec (.dwWriteMem p) s = .next
      { s with
        cursorCol := s.advanceCursor.cursorCol, cursorRow := s.advanceCursor.cursorRow
        result := .quiet })

/-- 41_protocol_fsm.md R181: with `PIXEL_BEATS = 2` the first write keeps the high byte, the second does what one write
of the whole pixel does (decision D2; log 12). -/
def Obligations.HalfPixelWritesMakeAPixel : Prop :=
  ∀ (s : State) (b : Byte), s.fatal = false →
    (s.wrPhase = false → exec (.dwWriteMemBeats2 b) s = .next
      { s with
        shift16 := BitVec.ofNat 16 (s.shift16.toNat * 256 + b.toNat), wrPhase := true
        result := .quiet }) ∧
    (s.wrPhase = true → ∀ p : Word, p = BitVec.ofNat 16 (s.shift16.toNat * 256 + b.toNat) → ∃ t,
      exec (.dwWriteMemBeats2 b) s = .next t ∧
      exec (.dwWriteMem p) { s with shift16 := p, wrPhase := false } = .next t)

/-- 44_pixel_codec.md R221, R222: each lane of `Encode565` is its field shifted to the top and zero filled; `Decode565`
is its left inverse, and the image is exactly the cells with the listed bits 0 (decision D15; log 21). -/
def Obligations.PixelEncodingLaws : Prop :=
  (∀ p : Word, (encode565 p).toNat =
    (p.toNat / 2048) * 8 * 65536 + (p.toNat / 32 % 64) * 4 * 256 + (p.toNat % 32) * 8) ∧
  (∀ p : Word, decode565 (encode565 p) = p) ∧
  (∀ c : Cell, isEncoded c = true ↔ ∃ p, encode565 p = c)

/-! ### Reading -/

/-- 41_protocol_fsm.md R175: the four data reads of read-display-id return `0, id>>16&0xFF, id>>8&0xFF, id&0xFF` and
move one step each, the fourth to `IDLE`; a fifth read, in `IDLE`, is ignored, and a flag or unknown command between
two of them moves nothing. -/
def Obligations.DisplayIdReadsReturnItsBytes : Prop :=
  (∀ (cfg : Config) (rs : RdSub), cfg.wf = true →
    ∀ r ∈ [(PState.read .rddid .s0, Instr.drRddid0), (.read .rddid .s1, .drRddid1),
           (.read .rddid .s2, .drRddid2), (.read .rddid .s3, .drRddid3), (.idle, .drIgnored)],
      ∀ w, decode cfg r.1 rs (.bus cfg.offData false w) = .ok r.2) ∧
  (∀ s : State, s.fatal = false →
    exec .drRddid0 s = .next
      { s with pstate := .read .rddid .s1, result := ⟨0, .none, false, none⟩ } ∧
    exec .drRddid1 s = .next
      { s with
        pstate := .read .rddid .s2
        result := ⟨((s.cfg.displayId >>> 16) &&& 0xFF#24).setWidth 16, .none, false, none⟩ } ∧
    exec .drRddid2 s = .next
      { s with
        pstate := .read .rddid .s3
        result := ⟨((s.cfg.displayId >>> 8) &&& 0xFF#24).setWidth 16, .none, false, none⟩ } ∧
    exec .drRddid3 s = .next
      { s with
        pstate := .idle
        result := ⟨(s.cfg.displayId &&& 0xFF#24).setWidth 16, .none, false, none⟩ }) ∧
  (∀ s : State, s.fatal = false → s.pstate = .idle →
    exec .drIgnored s = .next { s with result := ⟨0, .dataIgnored 0, false, none⟩ }) ∧
  (∀ (s : State) (c : Byte), s.fatal = false →
    ∀ i ∈ [Instr.slpin, .slpout, .invoff, .invon, .dispoff, .dispon, .teoff, .teon, .idmoff, .idmon,
           .unknownCmd c],
      ∃ t, exec i s = .next t ∧ t.pstate = s.pstate)

/-- 41_protocol_fsm.md R176 (decision D10; log 4): a data read of one of the seven other sequences returns some byte
with `rdata[15:8] = 0`, whatever it is, and moves one step, the fourth to `IDLE`; only the model's draw counter changes
beside. -/
def Obligations.OpenReadsAdvanceWhateverTheByte : Prop :=
  ∀ s : State, s.fatal = false →
    ∀ r ∈ [(Instr.drRddst0, PState.read .rddst .s1), (.drRddst1, .read .rddst .s2), (.drRddst2, .read .rddst .s3),
           (.drRddst3, .idle),
           (.drRddpm0, .read .rddpm .s1), (.drRddpm1, .read .rddpm .s2), (.drRddpm2, .read .rddpm .s3),
           (.drRddpm3, .idle),
           (.drRddmadctl0, .read .rddmadctl .s1), (.drRddmadctl1, .read .rddmadctl .s2),
           (.drRddmadctl2, .read .rddmadctl .s3), (.drRddmadctl3, .idle),
           (.drRddcolmod0, .read .rddcolmod .s1), (.drRddcolmod1, .read .rddcolmod .s2),
           (.drRddcolmod2, .read .rddcolmod .s3), (.drRddcolmod3, .idle)] ++
          [(.drRddim0, .read .rddim .s1), (.drRddim1, .read .rddim .s2), (.drRddim2, .read .rddim .s3),
           (.drRddim3, .idle),
           (.drRddsm0, .read .rddsm .s1), (.drRddsm1, .read .rddsm .s2), (.drRddsm2, .read .rddsm .s3),
           (.drRddsm3, .idle),
           (.drRddsdr0, .read .rddsdr .s1), (.drRddsdr1, .read .rddsdr .s2), (.drRddsdr2, .read .rddsdr .s3),
           (.drRddsdr3, .idle)],
      ∃ v : Byte, exec r.1 s = .next
        { s with pstate := r.2, draws := s.draws + 1, result := ⟨v.setWidth 16, .none, false, none⟩ }

/-- 41_protocol_fsm.md R183 to R185, 30_encoding.md R103: the three sub-steps of a memory read, lane by lane, and where
each leaves the cursor. The packing is decision D3, INFERRED in the source's own words (log 10). -/
def Obligations.MemoryReadSubSteps : Prop :=
  ∀ s : State, s.fatal = false → s.controlFormat = 0b110#3 →
    exec .drReadMem0 s = .next
      { s with
        rdSub := .r1
        result := ⟨BitVec.ofNat 16 ((s.getAtCursor.toNat / 65536 % 256) * 256 + s.getAtCursor.toNat / 256 % 256),
                   .none, false, none⟩ } ∧
    exec .drReadMem1 s = .next
      { s with
        rdSub := .r2
        cursorCol := s.advanceCursor.cursorCol, cursorRow := s.advanceCursor.cursorRow
        result := ⟨BitVec.ofNat 16 ((s.getAtCursor.toNat % 256) * 256 + s.advanceCursor.getAtCursor.toNat / 65536 % 256),
                   .none, false, none⟩ } ∧
    exec .drReadMem2 s = .next
      { s with
        rdSub := .r0
        cursorCol := s.advanceCursor.cursorCol, cursorRow := s.advanceCursor.cursorRow
        result := ⟨BitVec.ofNat 16 ((s.getAtCursor.toNat / 256 % 256) * 256 + s.getAtCursor.toNat % 256),
                   .none, false, none⟩ }

/-- 41_protocol_fsm.md R182 (log 13): a memory read found in another format raises the fatal fault and nothing else. -/
def Obligations.MemoryReadInOtherFormatIsFatal : Prop :=
  ∀ s : State, s.fatal = false → s.controlFormat ≠ 0b110#3 →
    ∀ i ∈ [Instr.drReadMem0, Instr.drReadMem1, Instr.drReadMem2],
      exec i s = .next { s with fatal := true, result := .quiet }

/-- 44_pixel_codec.md R224, R225: a group of three reads delivers the lanes of the pixel at the cursor and of the next,
moves the cursor two pixel steps, and changes no cell (decision D3; log 10). -/
def Obligations.ReadGroupDeliversTwoPixels : Prop :=
  ∀ s : State, s.fatal = false → s.controlFormat = 0b110#3 →
    ∃ t0 t1 t2, exec .drReadMem0 s = .next t0 ∧ exec .drReadMem1 t0 = .next t1 ∧ exec .drReadMem2 t1 = .next t2 ∧
      unpackGroup t0.result.rdata t1.result.rdata t2.result.rdata =
        ((laneR s.getAtCursor, laneG s.getAtCursor, laneB s.getAtCursor),
         (laneR s.advanceCursor.getAtCursor, laneG s.advanceCursor.getAtCursor,
          laneB s.advanceCursor.getAtCursor)) ∧
      t2 = { s.advanceCursor.advanceCursor with rdSub := .r0, result := t2.result }

/-- 44_pixel_codec.md R225, the source's round trip: in any good state whose window start is on the panel and whose
format is the 18-bit one, a pixel written there is read back with its three fields at the top of their lanes (decisions
D3, D15; log 10). -/
def Obligations.WrittenPixelReadsBack : Prop :=
  ∀ (s : State) (p : Word) (x y : Nat), s.fatal = false → s.controlFormat = 0b110#3 →
    transform s.cfg.W s.cfg.H s.my s.mx s.mv s.colStart s.rowStart = some (x, y) →
    ∃ t u, execAll [.ramwr, .dwWriteMem p, .ramrd, .drReadMem0] s = .next t ∧ exec .drReadMem1 t = .next u ∧
      t.result.rdata.toNat = (p.toNat / 2048) * 8 * 256 + (p.toNat / 32 % 64) * 4 ∧
      u.result.rdata.toNat / 256 = (p.toNat % 32) * 8

/-- 41_protocol_fsm.md R162 (decision D9; log 21): a data access the state does not expect changes no field, returns 0
and reports the code of the state. -/
def Obligations.UnexpectedDataAccessIsReportedOnly : Prop :=
  (∀ (cfg : Config) (ps : PState) (rs : RdSub) (w : Word), cfg.wf = true →
    (ignoresWrite ps = true → decode cfg ps rs (.bus cfg.offData true w) = .ok (.dwIgnored w)) ∧
    (ignoresRead ps = true → decode cfg ps rs (.bus cfg.offData false w) = .ok .drIgnored)) ∧
  (∀ (s : State) (w : Word), s.fatal = false →
    exec (.dwIgnored w) s = .next { s with result := ⟨0, .dataIgnored s.pstate.code, false, none⟩ } ∧
    exec .drIgnored s = .next { s with result := ⟨0, .dataIgnored s.pstate.code, false, none⟩ })

/-! ### The walk and the transform -/

/-- 42_address_window.md R201, R202: `AdvanceCursor` on mathematical integers, writing the cursor only; the pixel steps
call it once, `RAMWR` and `RAMRD` put the cursor at the window start, a reset leaves it at the reset window start, and
nothing else moves it. -/
def Obligations.CursorMovesAsStated : Prop :=
  (∀ s : State,
    s.advanceCursor =
      { s with cursorCol := s.advanceCursor.cursorCol, cursorRow := s.advanceCursor.cursorRow } ∧
    (s.colEnd.toNat < s.cursorCol.toNat + 1 →
      s.advanceCursor.cursorCol = s.colStart ∧
      (s.rowEnd.toNat < s.cursorRow.toNat + 1 → s.advanceCursor.cursorRow = s.rowStart) ∧
      (s.cursorRow.toNat + 1 ≤ s.rowEnd.toNat →
        s.advanceCursor.cursorRow.toNat = s.cursorRow.toNat + 1)) ∧
    (s.cursorCol.toNat + 1 ≤ s.colEnd.toNat →
      s.advanceCursor.cursorCol.toNat = s.cursorCol.toNat + 1 ∧ s.advanceCursor.cursorRow = s.cursorRow)) ∧
  (∀ (i : Instr) (s t : State), s.fatal = false → exec i s = .next t →
    let advances := (∃ p, i = .dwWriteMem p) ∨ ((∃ b, i = .dwWriteMemBeats2 b) ∧ s.wrPhase = true) ∨
      (i ∈ [Instr.drReadMem1, Instr.drReadMem2] ∧ s.controlFormat = 0b110#3)
    let restarts := i = .ramwr ∨ (i = .ramrd ∧ s.controlFormat = 0b110#3)
    (advances → t.cursorCol = s.advanceCursor.cursorCol ∧ t.cursorRow = s.advanceCursor.cursorRow ∧
      t.fatal = false ∧ t.result.diag = .none) ∧
    (restarts → t.cursorCol = s.colStart ∧ t.cursorRow = s.rowStart) ∧
    (i ∈ [Instr.swreset, Instr.extReset, Instr.powerOn] →
      t.cursorCol = t.colStart ∧ t.cursorRow = t.rowStart ∧ t.colStart = 0 ∧ t.rowStart = 0) ∧
    (¬ advances → ¬ restarts → i ∉ [Instr.swreset, Instr.extReset, Instr.powerOn] →
      t.cursorCol = s.cursorCol ∧ t.cursorRow = s.cursorRow))

/-- 42_address_window.md R201, R203: from the window start, `k` pixel steps are at column `k mod width` and row
`(k div width) mod height`: raster order, repeated without end (R203's arithmetic is decision D18; log 21). -/
def Obligations.WalkIsRasterOrderForEver : Prop :=
  ∀ (s : State) (k : Nat), s.colStart.toNat ≤ s.colEnd.toNat → s.rowStart.toNat ≤ s.rowEnd.toNat →
    (State.advanceCursor^[k] s.cursorToStart).cursorCol.toNat =
      s.colStart.toNat + k % (s.colEnd.toNat - s.colStart.toNat + 1) ∧
    (State.advanceCursor^[k] s.cursorToStart).cursorRow.toNat =
      s.rowStart.toNat + k / (s.colEnd.toNat - s.colStart.toNat + 1) % (s.rowEnd.toNat - s.rowStart.toNat + 1)

/-- 42_address_window.md R204 (d): in a window whose columns are inverted the walk goes down the single column
`col_start`; the same for rows: with inverted rows it goes along the single row `row_start`, and with both inverted it
stays at the window start. -/
def Obligations.InvertedWindowWalksOneColumn : Prop :=
  ∀ (s : State) (k : Nat),
    (s.colEnd.toNat < s.colStart.toNat → s.rowStart.toNat ≤ s.rowEnd.toNat →
      (State.advanceCursor^[k] s.cursorToStart).cursorCol = s.colStart ∧
      (State.advanceCursor^[k] s.cursorToStart).cursorRow.toNat =
        s.rowStart.toNat + k % (s.rowEnd.toNat - s.rowStart.toNat + 1)) ∧
    (s.colStart.toNat ≤ s.colEnd.toNat → s.rowEnd.toNat < s.rowStart.toNat →
      (State.advanceCursor^[k] s.cursorToStart).cursorCol.toNat =
        s.colStart.toNat + k % (s.colEnd.toNat - s.colStart.toNat + 1) ∧
      (State.advanceCursor^[k] s.cursorToStart).cursorRow = s.rowStart) ∧
    (s.colEnd.toNat < s.colStart.toNat → s.rowEnd.toNat < s.rowStart.toNat →
      (State.advanceCursor^[k] s.cursorToStart).cursorCol = s.colStart ∧
      (State.advanceCursor^[k] s.cursorToStart).cursorRow = s.rowStart)

/-- 43_coord_transform.md R215: the inverse table recovers the cursor position from the physical one, in all eight
orientations and for every position; so valid positions never collide (the `y` formula is decision D17; log 21). -/
def Obligations.TransformHasItsInverse : Prop :=
  (∀ (W H : Nat) (my mx mv : Bool) (col row : Int),
    logicalCol W H my mx mv (physX W H my mx mv col row) (physY W H my mx mv col row) = col ∧
    logicalRow W H my mx mv (physX W H my mx mv col row) (physY W H my mx mv col row) = row) ∧
  (∀ (W H : Nat) (my mx mv : Bool) (c r c' r' : Word) (q : Nat × Nat),
    transform W H my mx mv c r = some q → transform W H my mx mv c' r' = some q → c = c' ∧ r = r')

/-- 43_coord_transform.md R211, 60_exceptions.md R273: the position is invalid exactly when the computed `(x, y)` is
outside the panel; then a write stores nothing and a read gives 0 in the lanes of that position, nothing is raised or
reported, and the pixel step is otherwise complete. Which lanes of a read are 0 is the packing of decision D3 (log 10),
the write of half a pixel is the alternative D2 (log 12), the `y` formula with `MV = 1` is D17 (log 21). -/
def Obligations.InvalidPositionIsSkipped : Prop :=
  (∀ s : State, s.cursorPosition = none ↔
    ¬ (0 ≤ physX s.cfg.W s.cfg.H s.my s.mx s.mv s.cursorCol.toNat s.cursorRow.toNat ∧
       physX s.cfg.W s.cfg.H s.my s.mx s.mv s.cursorCol.toNat s.cursorRow.toNat < s.cfg.W ∧
       0 ≤ physY s.cfg.W s.cfg.H s.my s.mx s.mv s.cursorCol.toNat s.cursorRow.toNat ∧
       physY s.cfg.W s.cfg.H s.my s.mx s.mv s.cursorCol.toNat s.cursorRow.toNat < s.cfg.H)) ∧
  (∀ s : State, s.cursorPosition = none → s.fatal = false →
    (∀ p, exec (.dwWriteMem p) s = .next
      { s with
        cursorCol := s.advanceCursor.cursorCol, cursorRow := s.advanceCursor.cursorRow, result := .quiet }) ∧
    (∀ b, s.wrPhase = true → ∃ sh, exec (.dwWriteMemBeats2 b) s = .next
      { s with
        shift16 := sh, wrPhase := false
        cursorCol := s.advanceCursor.cursorCol, cursorRow := s.advanceCursor.cursorRow, result := .quiet }) ∧
    (s.controlFormat = 0b110#3 →
      exec .drReadMem0 s = .next { s with rdSub := .r1, result := .quiet } ∧
      (∃ w : Word, w.toNat < 256 ∧ exec .drReadMem1 s = .next
        { s with
          rdSub := .r2, cursorCol := s.advanceCursor.cursorCol, cursorRow := s.advanceCursor.cursorRow
          result := ⟨w, .none, false, none⟩ }) ∧
      exec .drReadMem2 s = .next
        { s with
          rdSub := .r0, cursorCol := s.advanceCursor.cursorCol, cursorRow := s.advanceCursor.cursorRow
          result := .quiet })) ∧
  (∀ s : State, s.advanceCursor.cursorPosition = none → s.fatal = false → s.controlFormat = 0b110#3 →
    ∃ t, exec .drReadMem1 s = .next t ∧ t.result.rdata.toNat % 256 = 0 ∧ t.result.diag = .none)

/-- 43_coord_transform.md R210, 45_framebuffer_memory.md R238: the transformed cursor is `(x, y)` exactly when the
computed position, written out arm by arm, is `(x, y)` and on the panel; `GetAtCursor` is the cell there, or 0 when the
position is invalid (the `y` formula with `MV = 1` is decision D17; log 21). -/
def Obligations.CellAtCursorOrZero : Prop :=
  (∀ (W H : Nat) (my mx : Bool) (col row : Int),
    physX W H my mx true col row = (if my then row else (H : Int) - 1 - row) ∧
    physY W H my mx true col row = (if mx then col else (W : Int) - 1 - col) ∧
    physX W H my mx false col row = (if mx then (W : Int) - 1 - col else col) ∧
    physY W H my mx false col row = (if my then (H : Int) - 1 - row else row)) ∧
  (∀ (s : State) (x y : Nat), s.cursorPosition = some (x, y) ↔
    physX s.cfg.W s.cfg.H s.my s.mx s.mv s.cursorCol.toNat s.cursorRow.toNat = x ∧
    physY s.cfg.W s.cfg.H s.my s.mx s.mv s.cursorCol.toNat s.cursorRow.toNat = y ∧
    x < s.cfg.W ∧ y < s.cfg.H) ∧
  (∀ s : State,
    (∀ x y, s.cursorPosition = some (x, y) → s.getAtCursor = s.fbGet x y) ∧
    (s.cursorPosition = none → s.getAtCursor = 0))

/-! ### The top level -/

/-- 20_memory.md R67: an access to an unmapped offset changes no field, a read returns 0, and both are reported. -/
def Obligations.UnmappedAccessIsReportedOnly : Prop :=
  (∀ (cfg : Config) (ps : PState) (rs : RdSub) (off : Nat) (we : Bool) (w : Word), off < 2 ^ cfg.addrW →
    off ≠ cfg.offCmd → off ≠ cfg.offData →
    decode cfg ps rs (.bus off we w) = .ok (.unmapped off we w)) ∧
  (∀ (s : State) (off : Nat) (we : Bool) (w : Word), s.fatal = false →
    exec (.unmapped off we w) s = .next { s with result := ⟨0, .unimplOffset off, false, none⟩ })

/-- 20_memory.md R63 (decision D8; log 21): a read of `OFF_CMD` is an unmapped access. -/
def Obligations.ReadOfCommandRegisterIsUnmapped : Prop :=
  ∀ (cfg : Config) (ps : PState) (rs : RdSub) (w : Word), cfg.wf = true →
    decode cfg ps rs (.bus cfg.offCmd false w) = .ok (.unmapped cfg.offCmd false w)

/-- 46_display_ctrl_top.md R258, 45_framebuffer_memory.md R239: `PAINT` returns the whole framebuffer, as it lies or
transposed, and clears `dirty`; nothing else changes (decision D19; log 21). -/
def Obligations.PaintCopiesTheWholeFramebuffer : Prop :=
  ∀ s : State, s.fatal = false → ∃ f : Surface,
    exec .paint s = .next { s with dirty := false, result := ⟨0, .none, false, some f⟩ } ∧
    f.pixels.length = f.width * f.height ∧
    (s.cfg.rotate = false → f.width = s.cfg.W ∧ f.height = s.cfg.H ∧
      ∀ sx sy, sx < f.width → sy < f.height →
        f.pixels[sy * f.width + sx]? = some ((s.fbGet sx sy).setWidth 24)) ∧
    (s.cfg.rotate = true → f.width = s.cfg.H ∧ f.height = s.cfg.W ∧
      ∀ sx sy, sx < f.width → sy < f.height →
        f.pixels[sy * f.width + sx]? = some ((s.fbGet sy sx).setWidth 24))

/-- 60_exceptions.md R276 (decision D14; log 7): while `fatal = 1` every instruction but `POWER_ON` changes no field
and returns the placeholders. -/
def Obligations.EverythingIsRefusedWhileFatal : Prop :=
  ∀ (i : Instr) (s : State), i ≠ .powerOn → s.fatal = true → exec i s = .next { s with result := .quiet }

/-! ### Steps -/

/-- 46_display_ctrl_top.md R252, 20_memory.md R70 (log 1): a step takes the oldest presented operation and is the
execution of the instruction it decodes to. -/
def Obligations.StepRunsTheDecodedInstruction : Prop :=
  ∀ (s : State) (op : Operation) (rest : List Operation) (i : Instr), s.pending = op :: rest →
    decode s.cfg s.pstate s.rdSub op = .ok i → step s = exec i { s with pending := rest }

/-- The model's own choices (log 1, log 8): with nothing presented a step changes nothing; an offset that does not fit
`ADDR_W` bits stops the machine by name. -/
def Obligations.StepWaitsOrStopsByName : Prop :=
  (∀ s : State, s.pending = [] → step s = .next s) ∧
  (∀ (s : State) (off : Nat) (we : Bool) (w : Word) (rest : List Operation),
    s.pending = .bus off we w :: rest → 2 ^ s.cfg.addrW ≤ off →
    step s = .fault (.offsetOutsideBusSpace off))

/-- 00_scope.md R15: no state is stuck: every operation that exists on the wires is enabled in every state, whatever
the protocol state. The rest is the model's choice: that the operations behind it are still presented afterwards (log 1,
for `POWER_ON` log 17), and that only an offset of `ADDR_W` bits exists on the wires (10_state.md R46; log 8). -/
def Obligations.EveryOperationIsEnabled : Prop :=
  ∀ (s : State) (op : Operation) (rest : List Operation), s.pending = op :: rest →
    op.inBusSpace s.cfg = true → ∃ t, step s = .next t ∧ t.pending = rest

/-- 41_protocol_fsm.md R178: how `pstate` moves, complete. Arming commands set it to their first sub-state (`RAMRD` when
it does not fault), the resets to `IDLE`, a consumed data access one step; nothing else moves it. -/
def Obligations.ProtocolStateMovesAsStated : Prop :=
  ∀ (s t : State) (op : Operation) (rest : List Operation) (i : Instr), s.cfg.wf = true → s.fatal = false →
    s.pending = op :: rest → decode s.cfg s.pstate s.rdSub op = .ok i → step s = .next t →
    (∀ ps, armTarget i = some ps → (i = .ramrd → s.controlFormat = 0b110#3) → t.pstate = ps) ∧
    (i ∈ [Instr.swreset, Instr.extReset, Instr.powerOn] → t.pstate = .idle) ∧
    (∀ we w, op = .bus s.cfg.offData we w → accessConsumed s.pstate we = true →
      t.pstate = stateAfterAccess s.pstate) ∧
    (t.pstate ≠ s.pstate →
      (∃ ps, armTarget i = some ps) ∨ i ∈ [Instr.swreset, Instr.extReset, Instr.powerOn] ∨
        ∃ we w, op = .bus s.cfg.offData we w ∧ accessConsumed s.pstate we = true)

/-- 10_state.md R37: no operation changes the configuration (log 3). -/
def Obligations.ConfigurationNeverChanges : Prop :=
  ∀ s t : State, step s = .next t → t.cfg = s.cfg

/-- 20_memory.md R76, 10_state.md R45: a step changes the framebuffer only as a data write in `WRITE_MEM`, which then
also raises `dirty` and `invalidate`, or as `POWER_ON` (decisions D16, D20, D31; log 5, 21). -/
def Obligations.FramebufferHasOneWriter : Prop :=
  ∀ (s t : State) (op : Operation) (rest : List Operation), s.cfg.wf = true → s.pending = op :: rest →
    step s = .next t → t.fb ≠ s.fb →
    (s.pstate = .writeMem ∧ (∃ w, op = .bus s.cfg.offData true w) ∧ t.dirty = true ∧ t.result.invalidate = true) ∨
    op = .powerOn

/-- 60_exceptions.md R272: an operation that reports a diagnostic changes no field of the state.
That it is taken from `pending` and its result kept is the model's form (log 1, 2). -/
def Obligations.DiagnosticsChangeNothing : Prop :=
  ∀ (s t : State) (op : Operation) (rest : List Operation), s.pending = op :: rest → step s = .next t →
    t.result.diag ≠ .none →
    t = { s with pending := rest, result := ⟨0, t.result.diag, false, none⟩ }

/-- 60_exceptions.md R275, 41_protocol_fsm.md R182: from a state that meets the invariant, a step that raises `fatal` is
a memory-read command in a format other than the 18-bit one (decision D14; log 7, 13). -/
def Obligations.FatalIsRaisedOnlyByMemoryRead : Prop :=
  ∀ s t : State, Inv s → s.fatal = false → step s = .next t → t.fatal = true →
    s.controlFormat ≠ 0b110#3 ∧
    ∃ w rest, s.pending = .bus s.cfg.offCmd true w :: rest ∧ w.toNat % 256 = 0x2E

/-- 60_exceptions.md R281, 10_state.md R43: only `POWER_ON` leaves a fatal state (decision D14; log 7). -/
def Obligations.OnlyPowerOnClearsFatal : Prop :=
  ∀ s t : State, s.fatal = true → step s = .next t → t.fatal = false →
    ∃ rest, s.pending = .powerOn :: rest

/-! ### Encoding -/

/-- 30_encoding.md R92, R90, 10_state.md R22: words written out from the spec's encodings, at least one per family. The
command numbers but `0x29` are decision D4 (log 15). -/
def Obligations.WrittenOutWordsDecode : Prop :=
  ∀ (cfg : Config) (ps : PState) (rs : RdSub), cfg.wf = true →
    decode cfg ps rs (.bus cfg.offCmd true 0b0000000000010000) = .ok .slpin ∧
    decode cfg ps rs (.bus cfg.offCmd true 0b0000000000101001) = .ok .dispon ∧
    decode cfg ps rs (.bus cfg.offCmd true 0b1010101000101001) = .ok .dispon ∧
    decode cfg ps rs (.bus cfg.offCmd true 0b0000000000000001) = .ok .swreset ∧
    decode cfg ps rs (.bus cfg.offCmd true 0b0000000000000100) = .ok .rddid ∧
    decode cfg ps rs (.bus cfg.offCmd true 0b0000000000101110) = .ok .ramrd ∧
    decode cfg ps rs (.bus cfg.offCmd true 0b0000000010110010) = .ok (.unknownCmd 0xB2) ∧
    decode cfg (.caset .s2) rs (.bus cfg.offData true 0xAB00) = .ok (.dwCaset2 0x00) ∧
    decode cfg .madctl0 rs (.bus cfg.offData true 0x00E0) = .ok (.dwMadctl0 0xE0) ∧
    decode { cfg with pixelBeats := .one } .writeMem rs (.bus cfg.offData true 0xF800) = .ok (.dwWriteMem 0xF800) ∧
    decode cfg (.read .rddsdr .s3) rs (.bus cfg.offData false 0) = .ok .drRddsdr3 ∧
    decode cfg .readMem .r1 (.bus cfg.offData false 0) = .ok .drReadMem1 ∧
    decode cfg ps rs .paint = .ok .paint

/-- 30_encoding.md R92 to R94: the map has 26 rows with pairwise different bytes, every listed byte is decoded to its
row, and the other 230 bytes are the unknown class (decisions D4, D22; log 15, 21). -/
def Obligations.CommandMapHas26Rows : Prop :=
  commandTable.length = 26 ∧ (commandTable.map Prod.fst).Nodup ∧
  (commandTable.map Prod.fst).Perm knownOpcodes ∧
  (∀ r ∈ commandTable, decodeCommand r.1 = r.2) ∧
  ((List.range 256).filter fun n => decodeCommand (BitVec.ofNat 8 n) = .unknownCmd (BitVec.ofNat 8 n)).length = 230

/-- 30_encoding.md R90 to R107: for every instruction, decoding the operation that presents it gives it back, at every
operand value, in every protocol state and configuration that select its row. -/
def Obligations.DecodeOfEncodeIsTheInstruction : Prop :=
  ∀ (cfg : Config) (ps : PState) (rs : RdSub) (i : Instr), cfg.wf = true → i.wf cfg ps rs = true →
    decode cfg ps rs (encode cfg i) = .ok i

/-- 30_encoding.md R107: whatever the decoder answers is well formed: its operands are in range and the protocol state
and configuration select its row (41_protocol_fsm.md R160, R161); so no data-phase row is taken in another state. That a
decoded bus offset also fits `ADDR_W` bits is the model's choice, which rejects a larger one (10_state.md R46; log 8). -/
def Obligations.DecodedInstructionIsWellFormed : Prop :=
  ∀ (cfg : Config) (ps : PState) (rs : RdSub) (op : Operation) (i : Instr),
    decode cfg ps rs op = .ok i → i.wf cfg ps rs = true ∧ op.inBusSpace cfg = true

/-! ### Invariants -/

/-- The invariant holds at reset, and after the power-on of any block whose configuration meets its constraints
(10_state.md R50). -/
def Obligations.InvariantHoldsAtReset : Prop :=
  Inv State.reset ∧ ∀ cfg : Config, cfg.wf = true → Inv (State.afterPowerOn cfg)

/-- Every step keeps the invariant: the configuration stays legal (00_scope.md R6), the framebuffer stays canonical,
inside the panel and in the image of `Encode565` (10_state.md R45, 44_pixel_codec.md R222), `READ_MEM` implies the
18-bit format (41_protocol_fsm.md R182), and `wr_phase` stays 0 when `PIXEL_BEATS = 1` (10_state.md R24). -/
def Obligations.EveryStepKeepsTheInvariant : Prop :=
  ∀ s t : State, Inv s → step s = .next t → Inv t

/-- 42_address_window.md R204 (d), (e), 70_reset_and_hazards.md R314: in the bulk states the cursor never leaves a
proper window; no pixel step sees a cursor that an old window left behind. -/
def Obligations.BulkCursorStaysInTheWindow : Prop :=
  ∀ s t : State, bulkCursorInWindow s → step s = .next t → bulkCursorInWindow t

/-- 10_state.md R40, R32, R36, R42: the five mode flags, `gamma`, `interface_format` and `dirty` decide nothing: two
states that differ only in them take steps to states that differ only in them, with the same result (that the flags
gate nothing is decision D29; log 21). -/
def Obligations.UnreadRegistersDecideNothing : Prop :=
  ∀ s s' t : State, s.wipeUnread = s'.wipeUnread → step s = .next t →
    ∃ t', step s' = .next t' ∧ t.wipeUnread = t'.wipeUnread
end

