-- ==== Sys2Proof/Laws/Decode.lean ====
section
/-! SUPPORT. What the decoder can answer, said once: a mapped offset reaches its decoder, and everything a decoded
operation can be. -/

namespace Sys2Proof

variable {cfg : Config} {ps : PState} {rs : RdSub}

theorem offData_lt_of_wf (h : cfg.wf = true) : cfg.offData < 2 ^ cfg.addrW := by
  simp only [Config.wf, Bool.and_eq_true, decide_eq_true_eq] at h
  exact h.2.2

theorem offCmd_lt_offData_of_wf (h : cfg.wf = true) : cfg.offCmd < cfg.offData := by
  simp only [Config.wf, Bool.and_eq_true, decide_eq_true_eq] at h
  exact h.2.1

/-- The parameter byte as a number. -/
theorem paramByte_eq_ofNat (w : Word) : paramByte w = BitVec.ofNat 8 w.toNat := by
  apply BitVec.eq_of_toNat_eq
  simp [paramByte, BitVec.extractLsb'_toNat]

/-- A byte put into a word is its parameter byte. -/
theorem paramByte_setWidth (b : Byte) : paramByte (b.setWidth 16) = b := by
  apply BitVec.eq_of_toNat_eq
  rw [paramByte_eq_ofNat, BitVec.toNat_ofNat, BitVec.toNat_setWidth]
  have := b.isLt
  omega

/-- A write at `OFF_CMD` reaches the command decoder. -/
theorem decode_command (h : cfg.wf = true) (w : Word) :
    decode cfg ps rs (.bus cfg.offCmd true w) = .ok (decodeCommand (paramByte w)) := by
  have h1 : cfg.offCmd < 2 ^ cfg.addrW := (offCmd_lt_offData_of_wf h).trans (offData_lt_of_wf h)
  simp [decode, h1]

/-- A write at `OFF_DATA` reaches the decoder of data writes. -/
theorem decode_dataWrite (h : cfg.wf = true) (w : Word) :
    decode cfg ps rs (.bus cfg.offData true w) = .ok (decodeDataWrite cfg.pixelBeats w ps) := by
  simp [decode, offData_lt_of_wf h, (offCmd_lt_offData_of_wf h).ne']

/-- A read at `OFF_DATA` reaches the decoder of data reads. -/
theorem decode_dataRead (h : cfg.wf = true) (w : Word) :
    decode cfg ps rs (.bus cfg.offData false w) = .ok (decodeDataRead rs ps) := by
  simp [decode, offData_lt_of_wf h]

/-- Everything a decoded operation can be. -/
theorem decode_cases {op : Operation} {i : Instr} (h : decode cfg ps rs op = .ok i) :
    (∃ w, op = .bus cfg.offCmd true w ∧ i = decodeCommand (paramByte w)) ∨
    (∃ w, op = .bus cfg.offData true w ∧ i = decodeDataWrite cfg.pixelBeats w ps) ∨
    (∃ w, op = .bus cfg.offData false w ∧ i = decodeDataRead rs ps) ∨
    (∃ off we w, op = .bus off we w ∧ off < 2 ^ cfg.addrW ∧ ¬ (off = cfg.offCmd ∧ we = true) ∧
      off ≠ cfg.offData ∧ i = .unmapped off we w) ∨
    (op = .extReset ∧ i = .extReset) ∨ (op = .powerOn ∧ i = .powerOn) ∨ (op = .paint ∧ i = .paint) := by
  cases op with
  | bus off we w =>
    simp only [decode] at h
    split at h
    · rename_i hlt
      split at h
      · rename_i hc
        cases h
        obtain ⟨rfl, rfl⟩ := hc
        exact .inl ⟨w, rfl, rfl⟩
      · rename_i hc
        split at h
        · rename_i hw
          cases h
          obtain ⟨rfl, rfl⟩ := hw
          exact .inr (.inl ⟨w, rfl, rfl⟩)
        · rename_i hw
          split at h
          · rename_i hr
            cases h
            obtain ⟨rfl, rfl⟩ := hr
            exact .inr (.inr (.inl ⟨w, rfl, rfl⟩))
          · rename_i hr
            cases h
            refine .inr (.inr (.inr (.inl ⟨off, we, w, rfl, hlt, hc, ?_, rfl⟩)))
            rintro rfl
            cases we <;> simp_all
    · cases h
  | extReset => cases h; simp
  | powerOn => cases h; simp
  | paint => cases h; simp

end Sys2Proof
end

