-- ==== Sys2Proof/Laws/Memory.lean ====
section
/-! SUPPORT. The framebuffer list: a read after a write, and that a write keeps the canonical form. -/

namespace Sys2Proof.Machine.Memory

/-- A read after a write gives the cell written there, and every other index reads as before. -/
theorem read?_write (m : Memory) (i : Nat) (v : Cell) (j : Nat) :
    (m.write i v).read? j = if j = i then some v else m.read? j := by
  induction m with
  | nil => simp [write, read?, eq_comm]
  | cons e m ih =>
    obtain ⟨k, c⟩ := e
    unfold write
    split
    · simp [read?, eq_comm]
    · split
      · subst_vars
        by_cases h : j = k <;> simp [read?, h, eq_comm]
      · rename_i hne
        by_cases h : k = j
        · subst h
          simp [read?, Ne.symm hne]
        · simp [read?, h, ih]

theorem read?_write_self (m : Memory) (i : Nat) (v : Cell) : (m.write i v).read? i = some v := by
  simp [read?_write]

theorem read?_write_ne (m : Memory) {i j : Nat} (v : Cell) (h : j ≠ i) :
    (m.write i v).read? j = m.read? j := by
  simp [read?_write, h]

/-- A store above a bound keeps a list that rises from that bound rising from it. -/
theorem risingFrom_write (m : Memory) (lo i : Nat) (v : Cell) (hlo : lo ≤ i)
    (h : m.risingFrom lo = true) : (m.write i v).risingFrom lo = true := by
  induction m generalizing lo with
  | nil => simp [write, risingFrom, hlo]
  | cons e m ih =>
    obtain ⟨k, c⟩ := e
    simp only [risingFrom, Bool.and_eq_true, decide_eq_true_eq] at h
    unfold write
    split
    · simp only [risingFrom, Bool.and_eq_true, decide_eq_true_eq]
      exact ⟨hlo, by omega, h.2⟩
    · split
      · subst_vars
        simp only [risingFrom, Bool.and_eq_true, decide_eq_true_eq]
        exact ⟨hlo, h.2⟩
      · simp only [risingFrom, Bool.and_eq_true, decide_eq_true_eq]
        exact ⟨h.1, ih (k + 1) (by omega) h.2⟩

/-- Every memory operation that changes the list keeps the canonical form. -/
theorem wf_write (m : Memory) (i : Nat) (v : Cell) (h : m.wf = true) : (m.write i v).wf = true :=
  risingFrom_write m 0 i v (Nat.zero_le i) h

theorem wf_nil : Memory.wf [] = true := rfl

/-- What a store can list: the new cell, and cells listed before. -/
theorem mem_write {m : Memory} {i : Nat} {v : Cell} {j : Nat} {c : Cell}
    (h : (j, c) ∈ m.write i v) : (j = i ∧ c = v) ∨ (j, c) ∈ m := by
  induction m with
  | nil => simpa [write] using h
  | cons e m ih =>
    obtain ⟨k, d⟩ := e
    unfold write at h
    split at h
    · simpa using h
    · split at h
      · rcases List.mem_cons.1 h with h | h
        · simp_all
        · exact .inr (List.mem_cons_of_mem _ h)
      · rcases List.mem_cons.1 h with h | h
        · exact .inr (by simp [h])
        · exact (ih h).imp id (List.mem_cons_of_mem _)

/-- A cell that is read is listed. -/
theorem mem_of_read? {m : Memory} {i : Nat} {c : Cell} (h : m.read? i = some c) : (i, c) ∈ m := by
  induction m with
  | nil => simp [read?] at h
  | cons e m ih =>
    obtain ⟨k, d⟩ := e
    unfold read? at h
    split at h
    · simp_all
    · exact List.mem_cons_of_mem _ (ih h)

end Sys2Proof.Machine.Memory

namespace Sys2Proof.Machine

/-- The framebuffer is canonical right after power-on. -/
theorem afterPowerOn_fb_wf (cfg : Config) : (State.afterPowerOn cfg).fb.wf = true := rfl

theorem reset_fb_wf : State.reset.fb.wf = true := rfl

end Sys2Proof.Machine
end

