-- ==== Sys2Proof/Laws/State.lean ====
section
/-! SUPPORT. What each update does to each field of the state, one lemma per field per update, all by definition. -/

namespace Sys2Proof.Machine.State

variable (s : State)

/-! ### `reply` -/

@[simp] theorem reply_cfg (r : Result) : (s.reply r).cfg = s.cfg := rfl
@[simp] theorem reply_pstate (r : Result) : (s.reply r).pstate = s.pstate := rfl
@[simp] theorem reply_rdSub (r : Result) : (s.reply r).rdSub = s.rdSub := rfl
@[simp] theorem reply_wrPhase (r : Result) : (s.reply r).wrPhase = s.wrPhase := rfl
@[simp] theorem reply_shift16 (r : Result) : (s.reply r).shift16 = s.shift16 := rfl
@[simp] theorem reply_colStart (r : Result) : (s.reply r).colStart = s.colStart := rfl
@[simp] theorem reply_colEnd (r : Result) : (s.reply r).colEnd = s.colEnd := rfl
@[simp] theorem reply_rowStart (r : Result) : (s.reply r).rowStart = s.rowStart := rfl
@[simp] theorem reply_rowEnd (r : Result) : (s.reply r).rowEnd = s.rowEnd := rfl
@[simp] theorem reply_cursorCol (r : Result) : (s.reply r).cursorCol = s.cursorCol := rfl
@[simp] theorem reply_cursorRow (r : Result) : (s.reply r).cursorRow = s.cursorRow := rfl
@[simp] theorem reply_gamma (r : Result) : (s.reply r).gamma = s.gamma := rfl
@[simp] theorem reply_my (r : Result) : (s.reply r).my = s.my := rfl
@[simp] theorem reply_mx (r : Result) : (s.reply r).mx = s.mx := rfl
@[simp] theorem reply_mv (r : Result) : (s.reply r).mv = s.mv := rfl
@[simp] theorem reply_interfaceFormat (r : Result) : (s.reply r).interfaceFormat = s.interfaceFormat := rfl
@[simp] theorem reply_controlFormat (r : Result) : (s.reply r).controlFormat = s.controlFormat := rfl
@[simp] theorem reply_sleepIn (r : Result) : (s.reply r).sleepIn = s.sleepIn := rfl
@[simp] theorem reply_displayOn (r : Result) : (s.reply r).displayOn = s.displayOn := rfl
@[simp] theorem reply_tearingOn (r : Result) : (s.reply r).tearingOn = s.tearingOn := rfl
@[simp] theorem reply_inversionOn (r : Result) : (s.reply r).inversionOn = s.inversionOn := rfl
@[simp] theorem reply_idleOn (r : Result) : (s.reply r).idleOn = s.idleOn := rfl
@[simp] theorem reply_dirty (r : Result) : (s.reply r).dirty = s.dirty := rfl
@[simp] theorem reply_fatal (r : Result) : (s.reply r).fatal = s.fatal := rfl
@[simp] theorem reply_fb (r : Result) : (s.reply r).fb = s.fb := rfl
@[simp] theorem reply_pending (r : Result) : (s.reply r).pending = s.pending := rfl
@[simp] theorem reply_result (r : Result) : (s.reply r).result = r := rfl
@[simp] theorem reply_draws (r : Result) : (s.reply r).draws = s.draws := rfl
@[simp] theorem reply_powerOns (r : Result) : (s.reply r).powerOns = s.powerOns := rfl

/-! ### `raiseFatal` -/

@[simp] theorem raiseFatal_cfg : (s.raiseFatal).cfg = s.cfg := rfl
@[simp] theorem raiseFatal_pstate : (s.raiseFatal).pstate = s.pstate := rfl
@[simp] theorem raiseFatal_rdSub : (s.raiseFatal).rdSub = s.rdSub := rfl
@[simp] theorem raiseFatal_wrPhase : (s.raiseFatal).wrPhase = s.wrPhase := rfl
@[simp] theorem raiseFatal_shift16 : (s.raiseFatal).shift16 = s.shift16 := rfl
@[simp] theorem raiseFatal_colStart : (s.raiseFatal).colStart = s.colStart := rfl
@[simp] theorem raiseFatal_colEnd : (s.raiseFatal).colEnd = s.colEnd := rfl
@[simp] theorem raiseFatal_rowStart : (s.raiseFatal).rowStart = s.rowStart := rfl
@[simp] theorem raiseFatal_rowEnd : (s.raiseFatal).rowEnd = s.rowEnd := rfl
@[simp] theorem raiseFatal_cursorCol : (s.raiseFatal).cursorCol = s.cursorCol := rfl
@[simp] theorem raiseFatal_cursorRow : (s.raiseFatal).cursorRow = s.cursorRow := rfl
@[simp] theorem raiseFatal_gamma : (s.raiseFatal).gamma = s.gamma := rfl
@[simp] theorem raiseFatal_my : (s.raiseFatal).my = s.my := rfl
@[simp] theorem raiseFatal_mx : (s.raiseFatal).mx = s.mx := rfl
@[simp] theorem raiseFatal_mv : (s.raiseFatal).mv = s.mv := rfl
@[simp] theorem raiseFatal_interfaceFormat : (s.raiseFatal).interfaceFormat = s.interfaceFormat := rfl
@[simp] theorem raiseFatal_controlFormat : (s.raiseFatal).controlFormat = s.controlFormat := rfl
@[simp] theorem raiseFatal_sleepIn : (s.raiseFatal).sleepIn = s.sleepIn := rfl
@[simp] theorem raiseFatal_displayOn : (s.raiseFatal).displayOn = s.displayOn := rfl
@[simp] theorem raiseFatal_tearingOn : (s.raiseFatal).tearingOn = s.tearingOn := rfl
@[simp] theorem raiseFatal_inversionOn : (s.raiseFatal).inversionOn = s.inversionOn := rfl
@[simp] theorem raiseFatal_idleOn : (s.raiseFatal).idleOn = s.idleOn := rfl
@[simp] theorem raiseFatal_dirty : (s.raiseFatal).dirty = s.dirty := rfl
@[simp] theorem raiseFatal_fatal : (s.raiseFatal).fatal = true := rfl
@[simp] theorem raiseFatal_fb : (s.raiseFatal).fb = s.fb := rfl
@[simp] theorem raiseFatal_pending : (s.raiseFatal).pending = s.pending := rfl
@[simp] theorem raiseFatal_result : (s.raiseFatal).result = .quiet := rfl
@[simp] theorem raiseFatal_draws : (s.raiseFatal).draws = s.draws := rfl
@[simp] theorem raiseFatal_powerOns : (s.raiseFatal).powerOns = s.powerOns := rfl

/-! ### `refuse` -/

@[simp] theorem refuse_cfg : (s.refuse).cfg = s.cfg := rfl
@[simp] theorem refuse_pstate : (s.refuse).pstate = s.pstate := rfl
@[simp] theorem refuse_rdSub : (s.refuse).rdSub = s.rdSub := rfl
@[simp] theorem refuse_wrPhase : (s.refuse).wrPhase = s.wrPhase := rfl
@[simp] theorem refuse_shift16 : (s.refuse).shift16 = s.shift16 := rfl
@[simp] theorem refuse_colStart : (s.refuse).colStart = s.colStart := rfl
@[simp] theorem refuse_colEnd : (s.refuse).colEnd = s.colEnd := rfl
@[simp] theorem refuse_rowStart : (s.refuse).rowStart = s.rowStart := rfl
@[simp] theorem refuse_rowEnd : (s.refuse).rowEnd = s.rowEnd := rfl
@[simp] theorem refuse_cursorCol : (s.refuse).cursorCol = s.cursorCol := rfl
@[simp] theorem refuse_cursorRow : (s.refuse).cursorRow = s.cursorRow := rfl
@[simp] theorem refuse_gamma : (s.refuse).gamma = s.gamma := rfl
@[simp] theorem refuse_my : (s.refuse).my = s.my := rfl
@[simp] theorem refuse_mx : (s.refuse).mx = s.mx := rfl
@[simp] theorem refuse_mv : (s.refuse).mv = s.mv := rfl
@[simp] theorem refuse_interfaceFormat : (s.refuse).interfaceFormat = s.interfaceFormat := rfl
@[simp] theorem refuse_controlFormat : (s.refuse).controlFormat = s.controlFormat := rfl
@[simp] theorem refuse_sleepIn : (s.refuse).sleepIn = s.sleepIn := rfl
@[simp] theorem refuse_displayOn : (s.refuse).displayOn = s.displayOn := rfl
@[simp] theorem refuse_tearingOn : (s.refuse).tearingOn = s.tearingOn := rfl
@[simp] theorem refuse_inversionOn : (s.refuse).inversionOn = s.inversionOn := rfl
@[simp] theorem refuse_idleOn : (s.refuse).idleOn = s.idleOn := rfl
@[simp] theorem refuse_dirty : (s.refuse).dirty = s.dirty := rfl
@[simp] theorem refuse_fatal : (s.refuse).fatal = s.fatal := rfl
@[simp] theorem refuse_fb : (s.refuse).fb = s.fb := rfl
@[simp] theorem refuse_pending : (s.refuse).pending = s.pending := rfl
@[simp] theorem refuse_result : (s.refuse).result = .quiet := rfl
@[simp] theorem refuse_draws : (s.refuse).draws = s.draws := rfl
@[simp] theorem refuse_powerOns : (s.refuse).powerOns = s.powerOns := rfl

/-! ### `goto` -/

@[simp] theorem goto_cfg (ps : PState) : (s.goto ps).cfg = s.cfg := rfl
@[simp] theorem goto_pstate (ps : PState) : (s.goto ps).pstate = ps := rfl
@[simp] theorem goto_rdSub (ps : PState) : (s.goto ps).rdSub = s.rdSub := rfl
@[simp] theorem goto_wrPhase (ps : PState) : (s.goto ps).wrPhase = s.wrPhase := rfl
@[simp] theorem goto_shift16 (ps : PState) : (s.goto ps).shift16 = s.shift16 := rfl
@[simp] theorem goto_colStart (ps : PState) : (s.goto ps).colStart = s.colStart := rfl
@[simp] theorem goto_colEnd (ps : PState) : (s.goto ps).colEnd = s.colEnd := rfl
@[simp] theorem goto_rowStart (ps : PState) : (s.goto ps).rowStart = s.rowStart := rfl
@[simp] theorem goto_rowEnd (ps : PState) : (s.goto ps).rowEnd = s.rowEnd := rfl
@[simp] theorem goto_cursorCol (ps : PState) : (s.goto ps).cursorCol = s.cursorCol := rfl
@[simp] theorem goto_cursorRow (ps : PState) : (s.goto ps).cursorRow = s.cursorRow := rfl
@[simp] theorem goto_gamma (ps : PState) : (s.goto ps).gamma = s.gamma := rfl
@[simp] theorem goto_my (ps : PState) : (s.goto ps).my = s.my := rfl
@[simp] theorem goto_mx (ps : PState) : (s.goto ps).mx = s.mx := rfl
@[simp] theorem goto_mv (ps : PState) : (s.goto ps).mv = s.mv := rfl
@[simp] theorem goto_interfaceFormat (ps : PState) : (s.goto ps).interfaceFormat = s.interfaceFormat := rfl
@[simp] theorem goto_controlFormat (ps : PState) : (s.goto ps).controlFormat = s.controlFormat := rfl
@[simp] theorem goto_sleepIn (ps : PState) : (s.goto ps).sleepIn = s.sleepIn := rfl
@[simp] theorem goto_displayOn (ps : PState) : (s.goto ps).displayOn = s.displayOn := rfl
@[simp] theorem goto_tearingOn (ps : PState) : (s.goto ps).tearingOn = s.tearingOn := rfl
@[simp] theorem goto_inversionOn (ps : PState) : (s.goto ps).inversionOn = s.inversionOn := rfl
@[simp] theorem goto_idleOn (ps : PState) : (s.goto ps).idleOn = s.idleOn := rfl
@[simp] theorem goto_dirty (ps : PState) : (s.goto ps).dirty = s.dirty := rfl
@[simp] theorem goto_fatal (ps : PState) : (s.goto ps).fatal = s.fatal := rfl
@[simp] theorem goto_fb (ps : PState) : (s.goto ps).fb = s.fb := rfl
@[simp] theorem goto_pending (ps : PState) : (s.goto ps).pending = s.pending := rfl
@[simp] theorem goto_result (ps : PState) : (s.goto ps).result = s.result := rfl
@[simp] theorem goto_draws (ps : PState) : (s.goto ps).draws = s.draws := rfl
@[simp] theorem goto_powerOns (ps : PState) : (s.goto ps).powerOns = s.powerOns := rfl

/-! ### `arm` -/

@[simp] theorem arm_cfg (ps : PState) : (s.arm ps).cfg = s.cfg := rfl
@[simp] theorem arm_pstate (ps : PState) : (s.arm ps).pstate = ps := rfl
@[simp] theorem arm_rdSub (ps : PState) : (s.arm ps).rdSub = s.rdSub := rfl
@[simp] theorem arm_wrPhase (ps : PState) : (s.arm ps).wrPhase = s.wrPhase := rfl
@[simp] theorem arm_shift16 (ps : PState) : (s.arm ps).shift16 = s.shift16 := rfl
@[simp] theorem arm_colStart (ps : PState) : (s.arm ps).colStart = s.colStart := rfl
@[simp] theorem arm_colEnd (ps : PState) : (s.arm ps).colEnd = s.colEnd := rfl
@[simp] theorem arm_rowStart (ps : PState) : (s.arm ps).rowStart = s.rowStart := rfl
@[simp] theorem arm_rowEnd (ps : PState) : (s.arm ps).rowEnd = s.rowEnd := rfl
@[simp] theorem arm_cursorCol (ps : PState) : (s.arm ps).cursorCol = s.cursorCol := rfl
@[simp] theorem arm_cursorRow (ps : PState) : (s.arm ps).cursorRow = s.cursorRow := rfl
@[simp] theorem arm_gamma (ps : PState) : (s.arm ps).gamma = s.gamma := rfl
@[simp] theorem arm_my (ps : PState) : (s.arm ps).my = s.my := rfl
@[simp] theorem arm_mx (ps : PState) : (s.arm ps).mx = s.mx := rfl
@[simp] theorem arm_mv (ps : PState) : (s.arm ps).mv = s.mv := rfl
@[simp] theorem arm_interfaceFormat (ps : PState) : (s.arm ps).interfaceFormat = s.interfaceFormat := rfl
@[simp] theorem arm_controlFormat (ps : PState) : (s.arm ps).controlFormat = s.controlFormat := rfl
@[simp] theorem arm_sleepIn (ps : PState) : (s.arm ps).sleepIn = s.sleepIn := rfl
@[simp] theorem arm_displayOn (ps : PState) : (s.arm ps).displayOn = s.displayOn := rfl
@[simp] theorem arm_tearingOn (ps : PState) : (s.arm ps).tearingOn = s.tearingOn := rfl
@[simp] theorem arm_inversionOn (ps : PState) : (s.arm ps).inversionOn = s.inversionOn := rfl
@[simp] theorem arm_idleOn (ps : PState) : (s.arm ps).idleOn = s.idleOn := rfl
@[simp] theorem arm_dirty (ps : PState) : (s.arm ps).dirty = s.dirty := rfl
@[simp] theorem arm_fatal (ps : PState) : (s.arm ps).fatal = s.fatal := rfl
@[simp] theorem arm_fb (ps : PState) : (s.arm ps).fb = s.fb := rfl
@[simp] theorem arm_pending (ps : PState) : (s.arm ps).pending = s.pending := rfl
@[simp] theorem arm_result (ps : PState) : (s.arm ps).result = .quiet := rfl
@[simp] theorem arm_draws (ps : PState) : (s.arm ps).draws = s.draws := rfl
@[simp] theorem arm_powerOns (ps : PState) : (s.arm ps).powerOns = s.powerOns := rfl

/-! ### `setRdSub` -/

@[simp] theorem setRdSub_cfg (v : RdSub) : (s.setRdSub v).cfg = s.cfg := rfl
@[simp] theorem setRdSub_pstate (v : RdSub) : (s.setRdSub v).pstate = s.pstate := rfl
@[simp] theorem setRdSub_rdSub (v : RdSub) : (s.setRdSub v).rdSub = v := rfl
@[simp] theorem setRdSub_wrPhase (v : RdSub) : (s.setRdSub v).wrPhase = s.wrPhase := rfl
@[simp] theorem setRdSub_shift16 (v : RdSub) : (s.setRdSub v).shift16 = s.shift16 := rfl
@[simp] theorem setRdSub_colStart (v : RdSub) : (s.setRdSub v).colStart = s.colStart := rfl
@[simp] theorem setRdSub_colEnd (v : RdSub) : (s.setRdSub v).colEnd = s.colEnd := rfl
@[simp] theorem setRdSub_rowStart (v : RdSub) : (s.setRdSub v).rowStart = s.rowStart := rfl
@[simp] theorem setRdSub_rowEnd (v : RdSub) : (s.setRdSub v).rowEnd = s.rowEnd := rfl
@[simp] theorem setRdSub_cursorCol (v : RdSub) : (s.setRdSub v).cursorCol = s.cursorCol := rfl
@[simp] theorem setRdSub_cursorRow (v : RdSub) : (s.setRdSub v).cursorRow = s.cursorRow := rfl
@[simp] theorem setRdSub_gamma (v : RdSub) : (s.setRdSub v).gamma = s.gamma := rfl
@[simp] theorem setRdSub_my (v : RdSub) : (s.setRdSub v).my = s.my := rfl
@[simp] theorem setRdSub_mx (v : RdSub) : (s.setRdSub v).mx = s.mx := rfl
@[simp] theorem setRdSub_mv (v : RdSub) : (s.setRdSub v).mv = s.mv := rfl
@[simp] theorem setRdSub_interfaceFormat (v : RdSub) : (s.setRdSub v).interfaceFormat = s.interfaceFormat := rfl
@[simp] theorem setRdSub_controlFormat (v : RdSub) : (s.setRdSub v).controlFormat = s.controlFormat := rfl
@[simp] theorem setRdSub_sleepIn (v : RdSub) : (s.setRdSub v).sleepIn = s.sleepIn := rfl
@[simp] theorem setRdSub_displayOn (v : RdSub) : (s.setRdSub v).displayOn = s.displayOn := rfl
@[simp] theorem setRdSub_tearingOn (v : RdSub) : (s.setRdSub v).tearingOn = s.tearingOn := rfl
@[simp] theorem setRdSub_inversionOn (v : RdSub) : (s.setRdSub v).inversionOn = s.inversionOn := rfl
@[simp] theorem setRdSub_idleOn (v : RdSub) : (s.setRdSub v).idleOn = s.idleOn := rfl
@[simp] theorem setRdSub_dirty (v : RdSub) : (s.setRdSub v).dirty = s.dirty := rfl
@[simp] theorem setRdSub_fatal (v : RdSub) : (s.setRdSub v).fatal = s.fatal := rfl
@[simp] theorem setRdSub_fb (v : RdSub) : (s.setRdSub v).fb = s.fb := rfl
@[simp] theorem setRdSub_pending (v : RdSub) : (s.setRdSub v).pending = s.pending := rfl
@[simp] theorem setRdSub_result (v : RdSub) : (s.setRdSub v).result = s.result := rfl
@[simp] theorem setRdSub_draws (v : RdSub) : (s.setRdSub v).draws = s.draws := rfl
@[simp] theorem setRdSub_powerOns (v : RdSub) : (s.setRdSub v).powerOns = s.powerOns := rfl

/-! ### `setWrPhase` -/

@[simp] theorem setWrPhase_cfg (v : Bool) : (s.setWrPhase v).cfg = s.cfg := rfl
@[simp] theorem setWrPhase_pstate (v : Bool) : (s.setWrPhase v).pstate = s.pstate := rfl
@[simp] theorem setWrPhase_rdSub (v : Bool) : (s.setWrPhase v).rdSub = s.rdSub := rfl
@[simp] theorem setWrPhase_wrPhase (v : Bool) : (s.setWrPhase v).wrPhase = v := rfl
@[simp] theorem setWrPhase_shift16 (v : Bool) : (s.setWrPhase v).shift16 = s.shift16 := rfl
@[simp] theorem setWrPhase_colStart (v : Bool) : (s.setWrPhase v).colStart = s.colStart := rfl
@[simp] theorem setWrPhase_colEnd (v : Bool) : (s.setWrPhase v).colEnd = s.colEnd := rfl
@[simp] theorem setWrPhase_rowStart (v : Bool) : (s.setWrPhase v).rowStart = s.rowStart := rfl
@[simp] theorem setWrPhase_rowEnd (v : Bool) : (s.setWrPhase v).rowEnd = s.rowEnd := rfl
@[simp] theorem setWrPhase_cursorCol (v : Bool) : (s.setWrPhase v).cursorCol = s.cursorCol := rfl
@[simp] theorem setWrPhase_cursorRow (v : Bool) : (s.setWrPhase v).cursorRow = s.cursorRow := rfl
@[simp] theorem setWrPhase_gamma (v : Bool) : (s.setWrPhase v).gamma = s.gamma := rfl
@[simp] theorem setWrPhase_my (v : Bool) : (s.setWrPhase v).my = s.my := rfl
@[simp] theorem setWrPhase_mx (v : Bool) : (s.setWrPhase v).mx = s.mx := rfl
@[simp] theorem setWrPhase_mv (v : Bool) : (s.setWrPhase v).mv = s.mv := rfl
@[simp] theorem setWrPhase_interfaceFormat (v : Bool) : (s.setWrPhase v).interfaceFormat = s.interfaceFormat := rfl
@[simp] theorem setWrPhase_controlFormat (v : Bool) : (s.setWrPhase v).controlFormat = s.controlFormat := rfl
@[simp] theorem setWrPhase_sleepIn (v : Bool) : (s.setWrPhase v).sleepIn = s.sleepIn := rfl
@[simp] theorem setWrPhase_displayOn (v : Bool) : (s.setWrPhase v).displayOn = s.displayOn := rfl
@[simp] theorem setWrPhase_tearingOn (v : Bool) : (s.setWrPhase v).tearingOn = s.tearingOn := rfl
@[simp] theorem setWrPhase_inversionOn (v : Bool) : (s.setWrPhase v).inversionOn = s.inversionOn := rfl
@[simp] theorem setWrPhase_idleOn (v : Bool) : (s.setWrPhase v).idleOn = s.idleOn := rfl
@[simp] theorem setWrPhase_dirty (v : Bool) : (s.setWrPhase v).dirty = s.dirty := rfl
@[simp] theorem setWrPhase_fatal (v : Bool) : (s.setWrPhase v).fatal = s.fatal := rfl
@[simp] theorem setWrPhase_fb (v : Bool) : (s.setWrPhase v).fb = s.fb := rfl
@[simp] theorem setWrPhase_pending (v : Bool) : (s.setWrPhase v).pending = s.pending := rfl
@[simp] theorem setWrPhase_result (v : Bool) : (s.setWrPhase v).result = s.result := rfl
@[simp] theorem setWrPhase_draws (v : Bool) : (s.setWrPhase v).draws = s.draws := rfl
@[simp] theorem setWrPhase_powerOns (v : Bool) : (s.setWrPhase v).powerOns = s.powerOns := rfl

/-! ### `setCursor` -/

@[simp] theorem setCursor_cfg (c r : Word) : (s.setCursor c r).cfg = s.cfg := rfl
@[simp] theorem setCursor_pstate (c r : Word) : (s.setCursor c r).pstate = s.pstate := rfl
@[simp] theorem setCursor_rdSub (c r : Word) : (s.setCursor c r).rdSub = s.rdSub := rfl
@[simp] theorem setCursor_wrPhase (c r : Word) : (s.setCursor c r).wrPhase = s.wrPhase := rfl
@[simp] theorem setCursor_shift16 (c r : Word) : (s.setCursor c r).shift16 = s.shift16 := rfl
@[simp] theorem setCursor_colStart (c r : Word) : (s.setCursor c r).colStart = s.colStart := rfl
@[simp] theorem setCursor_colEnd (c r : Word) : (s.setCursor c r).colEnd = s.colEnd := rfl
@[simp] theorem setCursor_rowStart (c r : Word) : (s.setCursor c r).rowStart = s.rowStart := rfl
@[simp] theorem setCursor_rowEnd (c r : Word) : (s.setCursor c r).rowEnd = s.rowEnd := rfl
@[simp] theorem setCursor_cursorCol (c r : Word) : (s.setCursor c r).cursorCol = c := rfl
@[simp] theorem setCursor_cursorRow (c r : Word) : (s.setCursor c r).cursorRow = r := rfl
@[simp] theorem setCursor_gamma (c r : Word) : (s.setCursor c r).gamma = s.gamma := rfl
@[simp] theorem setCursor_my (c r : Word) : (s.setCursor c r).my = s.my := rfl
@[simp] theorem setCursor_mx (c r : Word) : (s.setCursor c r).mx = s.mx := rfl
@[simp] theorem setCursor_mv (c r : Word) : (s.setCursor c r).mv = s.mv := rfl
@[simp] theorem setCursor_interfaceFormat (c r : Word) : (s.setCursor c r).interfaceFormat = s.interfaceFormat := rfl
@[simp] theorem setCursor_controlFormat (c r : Word) : (s.setCursor c r).controlFormat = s.controlFormat := rfl
@[simp] theorem setCursor_sleepIn (c r : Word) : (s.setCursor c r).sleepIn = s.sleepIn := rfl
@[simp] theorem setCursor_displayOn (c r : Word) : (s.setCursor c r).displayOn = s.displayOn := rfl
@[simp] theorem setCursor_tearingOn (c r : Word) : (s.setCursor c r).tearingOn = s.tearingOn := rfl
@[simp] theorem setCursor_inversionOn (c r : Word) : (s.setCursor c r).inversionOn = s.inversionOn := rfl
@[simp] theorem setCursor_idleOn (c r : Word) : (s.setCursor c r).idleOn = s.idleOn := rfl
@[simp] theorem setCursor_dirty (c r : Word) : (s.setCursor c r).dirty = s.dirty := rfl
@[simp] theorem setCursor_fatal (c r : Word) : (s.setCursor c r).fatal = s.fatal := rfl
@[simp] theorem setCursor_fb (c r : Word) : (s.setCursor c r).fb = s.fb := rfl
@[simp] theorem setCursor_pending (c r : Word) : (s.setCursor c r).pending = s.pending := rfl
@[simp] theorem setCursor_result (c r : Word) : (s.setCursor c r).result = s.result := rfl
@[simp] theorem setCursor_draws (c r : Word) : (s.setCursor c r).draws = s.draws := rfl
@[simp] theorem setCursor_powerOns (c r : Word) : (s.setCursor c r).powerOns = s.powerOns := rfl

/-! ### `advanceCursor` -/

@[simp] theorem advanceCursor_cfg : (s.advanceCursor).cfg = s.cfg := rfl
@[simp] theorem advanceCursor_pstate : (s.advanceCursor).pstate = s.pstate := rfl
@[simp] theorem advanceCursor_rdSub : (s.advanceCursor).rdSub = s.rdSub := rfl
@[simp] theorem advanceCursor_wrPhase : (s.advanceCursor).wrPhase = s.wrPhase := rfl
@[simp] theorem advanceCursor_shift16 : (s.advanceCursor).shift16 = s.shift16 := rfl
@[simp] theorem advanceCursor_colStart : (s.advanceCursor).colStart = s.colStart := rfl
@[simp] theorem advanceCursor_colEnd : (s.advanceCursor).colEnd = s.colEnd := rfl
@[simp] theorem advanceCursor_rowStart : (s.advanceCursor).rowStart = s.rowStart := rfl
@[simp] theorem advanceCursor_rowEnd : (s.advanceCursor).rowEnd = s.rowEnd := rfl
@[simp] theorem advanceCursor_cursorCol : (s.advanceCursor).cursorCol = nextCol s.colStart s.colEnd s.cursorCol := rfl
@[simp] theorem advanceCursor_cursorRow :
    (s.advanceCursor).cursorRow = nextRow s.colEnd s.rowStart s.rowEnd s.cursorCol s.cursorRow := rfl
@[simp] theorem advanceCursor_gamma : (s.advanceCursor).gamma = s.gamma := rfl
@[simp] theorem advanceCursor_my : (s.advanceCursor).my = s.my := rfl
@[simp] theorem advanceCursor_mx : (s.advanceCursor).mx = s.mx := rfl
@[simp] theorem advanceCursor_mv : (s.advanceCursor).mv = s.mv := rfl
@[simp] theorem advanceCursor_interfaceFormat : (s.advanceCursor).interfaceFormat = s.interfaceFormat := rfl
@[simp] theorem advanceCursor_controlFormat : (s.advanceCursor).controlFormat = s.controlFormat := rfl
@[simp] theorem advanceCursor_sleepIn : (s.advanceCursor).sleepIn = s.sleepIn := rfl
@[simp] theorem advanceCursor_displayOn : (s.advanceCursor).displayOn = s.displayOn := rfl
@[simp] theorem advanceCursor_tearingOn : (s.advanceCursor).tearingOn = s.tearingOn := rfl
@[simp] theorem advanceCursor_inversionOn : (s.advanceCursor).inversionOn = s.inversionOn := rfl
@[simp] theorem advanceCursor_idleOn : (s.advanceCursor).idleOn = s.idleOn := rfl
@[simp] theorem advanceCursor_dirty : (s.advanceCursor).dirty = s.dirty := rfl
@[simp] theorem advanceCursor_fatal : (s.advanceCursor).fatal = s.fatal := rfl
@[simp] theorem advanceCursor_fb : (s.advanceCursor).fb = s.fb := rfl
@[simp] theorem advanceCursor_pending : (s.advanceCursor).pending = s.pending := rfl
@[simp] theorem advanceCursor_result : (s.advanceCursor).result = s.result := rfl
@[simp] theorem advanceCursor_draws : (s.advanceCursor).draws = s.draws := rfl
@[simp] theorem advanceCursor_powerOns : (s.advanceCursor).powerOns = s.powerOns := rfl

/-! ### `cursorToStart` -/

@[simp] theorem cursorToStart_cfg : (s.cursorToStart).cfg = s.cfg := rfl
@[simp] theorem cursorToStart_pstate : (s.cursorToStart).pstate = s.pstate := rfl
@[simp] theorem cursorToStart_rdSub : (s.cursorToStart).rdSub = s.rdSub := rfl
@[simp] theorem cursorToStart_wrPhase : (s.cursorToStart).wrPhase = s.wrPhase := rfl
@[simp] theorem cursorToStart_shift16 : (s.cursorToStart).shift16 = s.shift16 := rfl
@[simp] theorem cursorToStart_colStart : (s.cursorToStart).colStart = s.colStart := rfl
@[simp] theorem cursorToStart_colEnd : (s.cursorToStart).colEnd = s.colEnd := rfl
@[simp] theorem cursorToStart_rowStart : (s.cursorToStart).rowStart = s.rowStart := rfl
@[simp] theorem cursorToStart_rowEnd : (s.cursorToStart).rowEnd = s.rowEnd := rfl
@[simp] theorem cursorToStart_cursorCol : (s.cursorToStart).cursorCol = s.colStart := rfl
@[simp] theorem cursorToStart_cursorRow : (s.cursorToStart).cursorRow = s.rowStart := rfl
@[simp] theorem cursorToStart_gamma : (s.cursorToStart).gamma = s.gamma := rfl
@[simp] theorem cursorToStart_my : (s.cursorToStart).my = s.my := rfl
@[simp] theorem cursorToStart_mx : (s.cursorToStart).mx = s.mx := rfl
@[simp] theorem cursorToStart_mv : (s.cursorToStart).mv = s.mv := rfl
@[simp] theorem cursorToStart_interfaceFormat : (s.cursorToStart).interfaceFormat = s.interfaceFormat := rfl
@[simp] theorem cursorToStart_controlFormat : (s.cursorToStart).controlFormat = s.controlFormat := rfl
@[simp] theorem cursorToStart_sleepIn : (s.cursorToStart).sleepIn = s.sleepIn := rfl
@[simp] theorem cursorToStart_displayOn : (s.cursorToStart).displayOn = s.displayOn := rfl
@[simp] theorem cursorToStart_tearingOn : (s.cursorToStart).tearingOn = s.tearingOn := rfl
@[simp] theorem cursorToStart_inversionOn : (s.cursorToStart).inversionOn = s.inversionOn := rfl
@[simp] theorem cursorToStart_idleOn : (s.cursorToStart).idleOn = s.idleOn := rfl
@[simp] theorem cursorToStart_dirty : (s.cursorToStart).dirty = s.dirty := rfl
@[simp] theorem cursorToStart_fatal : (s.cursorToStart).fatal = s.fatal := rfl
@[simp] theorem cursorToStart_fb : (s.cursorToStart).fb = s.fb := rfl
@[simp] theorem cursorToStart_pending : (s.cursorToStart).pending = s.pending := rfl
@[simp] theorem cursorToStart_result : (s.cursorToStart).result = s.result := rfl
@[simp] theorem cursorToStart_draws : (s.cursorToStart).draws = s.draws := rfl
@[simp] theorem cursorToStart_powerOns : (s.cursorToStart).powerOns = s.powerOns := rfl

/-! ### `loadColStart` -/

@[simp] theorem loadColStart_cfg (v : Word) : (s.loadColStart v).cfg = s.cfg := rfl
@[simp] theorem loadColStart_pstate (v : Word) : (s.loadColStart v).pstate = s.pstate := rfl
@[simp] theorem loadColStart_rdSub (v : Word) : (s.loadColStart v).rdSub = s.rdSub := rfl
@[simp] theorem loadColStart_wrPhase (v : Word) : (s.loadColStart v).wrPhase = s.wrPhase := rfl
@[simp] theorem loadColStart_shift16 (v : Word) : (s.loadColStart v).shift16 = s.shift16 := rfl
@[simp] theorem loadColStart_colStart (v : Word) : (s.loadColStart v).colStart = v := rfl
@[simp] theorem loadColStart_colEnd (v : Word) : (s.loadColStart v).colEnd = s.colEnd := rfl
@[simp] theorem loadColStart_rowStart (v : Word) : (s.loadColStart v).rowStart = s.rowStart := rfl
@[simp] theorem loadColStart_rowEnd (v : Word) : (s.loadColStart v).rowEnd = s.rowEnd := rfl
@[simp] theorem loadColStart_cursorCol (v : Word) : (s.loadColStart v).cursorCol = s.cursorCol := rfl
@[simp] theorem loadColStart_cursorRow (v : Word) : (s.loadColStart v).cursorRow = s.cursorRow := rfl
@[simp] theorem loadColStart_gamma (v : Word) : (s.loadColStart v).gamma = s.gamma := rfl
@[simp] theorem loadColStart_my (v : Word) : (s.loadColStart v).my = s.my := rfl
@[simp] theorem loadColStart_mx (v : Word) : (s.loadColStart v).mx = s.mx := rfl
@[simp] theorem loadColStart_mv (v : Word) : (s.loadColStart v).mv = s.mv := rfl
@[simp] theorem loadColStart_interfaceFormat (v : Word) :
    (s.loadColStart v).interfaceFormat = s.interfaceFormat := rfl
@[simp] theorem loadColStart_controlFormat (v : Word) : (s.loadColStart v).controlFormat = s.controlFormat := rfl
@[simp] theorem loadColStart_sleepIn (v : Word) : (s.loadColStart v).sleepIn = s.sleepIn := rfl
@[simp] theorem loadColStart_displayOn (v : Word) : (s.loadColStart v).displayOn = s.displayOn := rfl
@[simp] theorem loadColStart_tearingOn (v : Word) : (s.loadColStart v).tearingOn = s.tearingOn := rfl
@[simp] theorem loadColStart_inversionOn (v : Word) : (s.loadColStart v).inversionOn = s.inversionOn := rfl
@[simp] theorem loadColStart_idleOn (v : Word) : (s.loadColStart v).idleOn = s.idleOn := rfl
@[simp] theorem loadColStart_dirty (v : Word) : (s.loadColStart v).dirty = s.dirty := rfl
@[simp] theorem loadColStart_fatal (v : Word) : (s.loadColStart v).fatal = s.fatal := rfl
@[simp] theorem loadColStart_fb (v : Word) : (s.loadColStart v).fb = s.fb := rfl
@[simp] theorem loadColStart_pending (v : Word) : (s.loadColStart v).pending = s.pending := rfl
@[simp] theorem loadColStart_result (v : Word) : (s.loadColStart v).result = s.result := rfl
@[simp] theorem loadColStart_draws (v : Word) : (s.loadColStart v).draws = s.draws := rfl
@[simp] theorem loadColStart_powerOns (v : Word) : (s.loadColStart v).powerOns = s.powerOns := rfl

/-! ### `loadColEnd` -/

@[simp] theorem loadColEnd_cfg (v : Word) : (s.loadColEnd v).cfg = s.cfg := rfl
@[simp] theorem loadColEnd_pstate (v : Word) : (s.loadColEnd v).pstate = s.pstate := rfl
@[simp] theorem loadColEnd_rdSub (v : Word) : (s.loadColEnd v).rdSub = s.rdSub := rfl
@[simp] theorem loadColEnd_wrPhase (v : Word) : (s.loadColEnd v).wrPhase = s.wrPhase := rfl
@[simp] theorem loadColEnd_shift16 (v : Word) : (s.loadColEnd v).shift16 = s.shift16 := rfl
@[simp] theorem loadColEnd_colStart (v : Word) : (s.loadColEnd v).colStart = s.colStart := rfl
@[simp] theorem loadColEnd_colEnd (v : Word) : (s.loadColEnd v).colEnd = v := rfl
@[simp] theorem loadColEnd_rowStart (v : Word) : (s.loadColEnd v).rowStart = s.rowStart := rfl
@[simp] theorem loadColEnd_rowEnd (v : Word) : (s.loadColEnd v).rowEnd = s.rowEnd := rfl
@[simp] theorem loadColEnd_cursorCol (v : Word) : (s.loadColEnd v).cursorCol = s.cursorCol := rfl
@[simp] theorem loadColEnd_cursorRow (v : Word) : (s.loadColEnd v).cursorRow = s.cursorRow := rfl
@[simp] theorem loadColEnd_gamma (v : Word) : (s.loadColEnd v).gamma = s.gamma := rfl
@[simp] theorem loadColEnd_my (v : Word) : (s.loadColEnd v).my = s.my := rfl
@[simp] theorem loadColEnd_mx (v : Word) : (s.loadColEnd v).mx = s.mx := rfl
@[simp] theorem loadColEnd_mv (v : Word) : (s.loadColEnd v).mv = s.mv := rfl
@[simp] theorem loadColEnd_interfaceFormat (v : Word) : (s.loadColEnd v).interfaceFormat = s.interfaceFormat := rfl
@[simp] theorem loadColEnd_controlFormat (v : Word) : (s.loadColEnd v).controlFormat = s.controlFormat := rfl
@[simp] theorem loadColEnd_sleepIn (v : Word) : (s.loadColEnd v).sleepIn = s.sleepIn := rfl
@[simp] theorem loadColEnd_displayOn (v : Word) : (s.loadColEnd v).displayOn = s.displayOn := rfl
@[simp] theorem loadColEnd_tearingOn (v : Word) : (s.loadColEnd v).tearingOn = s.tearingOn := rfl
@[simp] theorem loadColEnd_inversionOn (v : Word) : (s.loadColEnd v).inversionOn = s.inversionOn := rfl
@[simp] theorem loadColEnd_idleOn (v : Word) : (s.loadColEnd v).idleOn = s.idleOn := rfl
@[simp] theorem loadColEnd_dirty (v : Word) : (s.loadColEnd v).dirty = s.dirty := rfl
@[simp] theorem loadColEnd_fatal (v : Word) : (s.loadColEnd v).fatal = s.fatal := rfl
@[simp] theorem loadColEnd_fb (v : Word) : (s.loadColEnd v).fb = s.fb := rfl
@[simp] theorem loadColEnd_pending (v : Word) : (s.loadColEnd v).pending = s.pending := rfl
@[simp] theorem loadColEnd_result (v : Word) : (s.loadColEnd v).result = s.result := rfl
@[simp] theorem loadColEnd_draws (v : Word) : (s.loadColEnd v).draws = s.draws := rfl
@[simp] theorem loadColEnd_powerOns (v : Word) : (s.loadColEnd v).powerOns = s.powerOns := rfl

/-! ### `loadRowStart` -/

@[simp] theorem loadRowStart_cfg (v : Word) : (s.loadRowStart v).cfg = s.cfg := rfl
@[simp] theorem loadRowStart_pstate (v : Word) : (s.loadRowStart v).pstate = s.pstate := rfl
@[simp] theorem loadRowStart_rdSub (v : Word) : (s.loadRowStart v).rdSub = s.rdSub := rfl
@[simp] theorem loadRowStart_wrPhase (v : Word) : (s.loadRowStart v).wrPhase = s.wrPhase := rfl
@[simp] theorem loadRowStart_shift16 (v : Word) : (s.loadRowStart v).shift16 = s.shift16 := rfl
@[simp] theorem loadRowStart_colStart (v : Word) : (s.loadRowStart v).colStart = s.colStart := rfl
@[simp] theorem loadRowStart_colEnd (v : Word) : (s.loadRowStart v).colEnd = s.colEnd := rfl
@[simp] theorem loadRowStart_rowStart (v : Word) : (s.loadRowStart v).rowStart = v := rfl
@[simp] theorem loadRowStart_rowEnd (v : Word) : (s.loadRowStart v).rowEnd = s.rowEnd := rfl
@[simp] theorem loadRowStart_cursorCol (v : Word) : (s.loadRowStart v).cursorCol = s.cursorCol := rfl
@[simp] theorem loadRowStart_cursorRow (v : Word) : (s.loadRowStart v).cursorRow = s.cursorRow := rfl
@[simp] theorem loadRowStart_gamma (v : Word) : (s.loadRowStart v).gamma = s.gamma := rfl
@[simp] theorem loadRowStart_my (v : Word) : (s.loadRowStart v).my = s.my := rfl
@[simp] theorem loadRowStart_mx (v : Word) : (s.loadRowStart v).mx = s.mx := rfl
@[simp] theorem loadRowStart_mv (v : Word) : (s.loadRowStart v).mv = s.mv := rfl
@[simp] theorem loadRowStart_interfaceFormat (v : Word) :
    (s.loadRowStart v).interfaceFormat = s.interfaceFormat := rfl
@[simp] theorem loadRowStart_controlFormat (v : Word) : (s.loadRowStart v).controlFormat = s.controlFormat := rfl
@[simp] theorem loadRowStart_sleepIn (v : Word) : (s.loadRowStart v).sleepIn = s.sleepIn := rfl
@[simp] theorem loadRowStart_displayOn (v : Word) : (s.loadRowStart v).displayOn = s.displayOn := rfl
@[simp] theorem loadRowStart_tearingOn (v : Word) : (s.loadRowStart v).tearingOn = s.tearingOn := rfl
@[simp] theorem loadRowStart_inversionOn (v : Word) : (s.loadRowStart v).inversionOn = s.inversionOn := rfl
@[simp] theorem loadRowStart_idleOn (v : Word) : (s.loadRowStart v).idleOn = s.idleOn := rfl
@[simp] theorem loadRowStart_dirty (v : Word) : (s.loadRowStart v).dirty = s.dirty := rfl
@[simp] theorem loadRowStart_fatal (v : Word) : (s.loadRowStart v).fatal = s.fatal := rfl
@[simp] theorem loadRowStart_fb (v : Word) : (s.loadRowStart v).fb = s.fb := rfl
@[simp] theorem loadRowStart_pending (v : Word) : (s.loadRowStart v).pending = s.pending := rfl
@[simp] theorem loadRowStart_result (v : Word) : (s.loadRowStart v).result = s.result := rfl
@[simp] theorem loadRowStart_draws (v : Word) : (s.loadRowStart v).draws = s.draws := rfl
@[simp] theorem loadRowStart_powerOns (v : Word) : (s.loadRowStart v).powerOns = s.powerOns := rfl

/-! ### `loadRowEnd` -/

@[simp] theorem loadRowEnd_cfg (v : Word) : (s.loadRowEnd v).cfg = s.cfg := rfl
@[simp] theorem loadRowEnd_pstate (v : Word) : (s.loadRowEnd v).pstate = s.pstate := rfl
@[simp] theorem loadRowEnd_rdSub (v : Word) : (s.loadRowEnd v).rdSub = s.rdSub := rfl
@[simp] theorem loadRowEnd_wrPhase (v : Word) : (s.loadRowEnd v).wrPhase = s.wrPhase := rfl
@[simp] theorem loadRowEnd_shift16 (v : Word) : (s.loadRowEnd v).shift16 = s.shift16 := rfl
@[simp] theorem loadRowEnd_colStart (v : Word) : (s.loadRowEnd v).colStart = s.colStart := rfl
@[simp] theorem loadRowEnd_colEnd (v : Word) : (s.loadRowEnd v).colEnd = s.colEnd := rfl
@[simp] theorem loadRowEnd_rowStart (v : Word) : (s.loadRowEnd v).rowStart = s.rowStart := rfl
@[simp] theorem loadRowEnd_rowEnd (v : Word) : (s.loadRowEnd v).rowEnd = v := rfl
@[simp] theorem loadRowEnd_cursorCol (v : Word) : (s.loadRowEnd v).cursorCol = s.cursorCol := rfl
@[simp] theorem loadRowEnd_cursorRow (v : Word) : (s.loadRowEnd v).cursorRow = s.cursorRow := rfl
@[simp] theorem loadRowEnd_gamma (v : Word) : (s.loadRowEnd v).gamma = s.gamma := rfl
@[simp] theorem loadRowEnd_my (v : Word) : (s.loadRowEnd v).my = s.my := rfl
@[simp] theorem loadRowEnd_mx (v : Word) : (s.loadRowEnd v).mx = s.mx := rfl
@[simp] theorem loadRowEnd_mv (v : Word) : (s.loadRowEnd v).mv = s.mv := rfl
@[simp] theorem loadRowEnd_interfaceFormat (v : Word) : (s.loadRowEnd v).interfaceFormat = s.interfaceFormat := rfl
@[simp] theorem loadRowEnd_controlFormat (v : Word) : (s.loadRowEnd v).controlFormat = s.controlFormat := rfl
@[simp] theorem loadRowEnd_sleepIn (v : Word) : (s.loadRowEnd v).sleepIn = s.sleepIn := rfl
@[simp] theorem loadRowEnd_displayOn (v : Word) : (s.loadRowEnd v).displayOn = s.displayOn := rfl
@[simp] theorem loadRowEnd_tearingOn (v : Word) : (s.loadRowEnd v).tearingOn = s.tearingOn := rfl
@[simp] theorem loadRowEnd_inversionOn (v : Word) : (s.loadRowEnd v).inversionOn = s.inversionOn := rfl
@[simp] theorem loadRowEnd_idleOn (v : Word) : (s.loadRowEnd v).idleOn = s.idleOn := rfl
@[simp] theorem loadRowEnd_dirty (v : Word) : (s.loadRowEnd v).dirty = s.dirty := rfl
@[simp] theorem loadRowEnd_fatal (v : Word) : (s.loadRowEnd v).fatal = s.fatal := rfl
@[simp] theorem loadRowEnd_fb (v : Word) : (s.loadRowEnd v).fb = s.fb := rfl
@[simp] theorem loadRowEnd_pending (v : Word) : (s.loadRowEnd v).pending = s.pending := rfl
@[simp] theorem loadRowEnd_result (v : Word) : (s.loadRowEnd v).result = s.result := rfl
@[simp] theorem loadRowEnd_draws (v : Word) : (s.loadRowEnd v).draws = s.draws := rfl
@[simp] theorem loadRowEnd_powerOns (v : Word) : (s.loadRowEnd v).powerOns = s.powerOns := rfl

/-! ### `shift8` -/

@[simp] theorem shift8_cfg (b : Byte) : (s.shift8 b).cfg = s.cfg := rfl
@[simp] theorem shift8_pstate (b : Byte) : (s.shift8 b).pstate = s.pstate := rfl
@[simp] theorem shift8_rdSub (b : Byte) : (s.shift8 b).rdSub = s.rdSub := rfl
@[simp] theorem shift8_wrPhase (b : Byte) : (s.shift8 b).wrPhase = s.wrPhase := rfl
@[simp] theorem shift8_shift16 (b : Byte) : (s.shift8 b).shift16 = shiftByte s.shift16 b := rfl
@[simp] theorem shift8_colStart (b : Byte) : (s.shift8 b).colStart = s.colStart := rfl
@[simp] theorem shift8_colEnd (b : Byte) : (s.shift8 b).colEnd = s.colEnd := rfl
@[simp] theorem shift8_rowStart (b : Byte) : (s.shift8 b).rowStart = s.rowStart := rfl
@[simp] theorem shift8_rowEnd (b : Byte) : (s.shift8 b).rowEnd = s.rowEnd := rfl
@[simp] theorem shift8_cursorCol (b : Byte) : (s.shift8 b).cursorCol = s.cursorCol := rfl
@[simp] theorem shift8_cursorRow (b : Byte) : (s.shift8 b).cursorRow = s.cursorRow := rfl
@[simp] theorem shift8_gamma (b : Byte) : (s.shift8 b).gamma = s.gamma := rfl
@[simp] theorem shift8_my (b : Byte) : (s.shift8 b).my = s.my := rfl
@[simp] theorem shift8_mx (b : Byte) : (s.shift8 b).mx = s.mx := rfl
@[simp] theorem shift8_mv (b : Byte) : (s.shift8 b).mv = s.mv := rfl
@[simp] theorem shift8_interfaceFormat (b : Byte) : (s.shift8 b).interfaceFormat = s.interfaceFormat := rfl
@[simp] theorem shift8_controlFormat (b : Byte) : (s.shift8 b).controlFormat = s.controlFormat := rfl
@[simp] theorem shift8_sleepIn (b : Byte) : (s.shift8 b).sleepIn = s.sleepIn := rfl
@[simp] theorem shift8_displayOn (b : Byte) : (s.shift8 b).displayOn = s.displayOn := rfl
@[simp] theorem shift8_tearingOn (b : Byte) : (s.shift8 b).tearingOn = s.tearingOn := rfl
@[simp] theorem shift8_inversionOn (b : Byte) : (s.shift8 b).inversionOn = s.inversionOn := rfl
@[simp] theorem shift8_idleOn (b : Byte) : (s.shift8 b).idleOn = s.idleOn := rfl
@[simp] theorem shift8_dirty (b : Byte) : (s.shift8 b).dirty = s.dirty := rfl
@[simp] theorem shift8_fatal (b : Byte) : (s.shift8 b).fatal = s.fatal := rfl
@[simp] theorem shift8_fb (b : Byte) : (s.shift8 b).fb = s.fb := rfl
@[simp] theorem shift8_pending (b : Byte) : (s.shift8 b).pending = s.pending := rfl
@[simp] theorem shift8_result (b : Byte) : (s.shift8 b).result = s.result := rfl
@[simp] theorem shift8_draws (b : Byte) : (s.shift8 b).draws = s.draws := rfl
@[simp] theorem shift8_powerOns (b : Byte) : (s.shift8 b).powerOns = s.powerOns := rfl

/-! ### `loadOrientation` -/

@[simp] theorem loadOrientation_cfg (b : Byte) : (s.loadOrientation b).cfg = s.cfg := rfl
@[simp] theorem loadOrientation_pstate (b : Byte) : (s.loadOrientation b).pstate = s.pstate := rfl
@[simp] theorem loadOrientation_rdSub (b : Byte) : (s.loadOrientation b).rdSub = s.rdSub := rfl
@[simp] theorem loadOrientation_wrPhase (b : Byte) : (s.loadOrientation b).wrPhase = s.wrPhase := rfl
@[simp] theorem loadOrientation_shift16 (b : Byte) : (s.loadOrientation b).shift16 = s.shift16 := rfl
@[simp] theorem loadOrientation_colStart (b : Byte) : (s.loadOrientation b).colStart = s.colStart := rfl
@[simp] theorem loadOrientation_colEnd (b : Byte) : (s.loadOrientation b).colEnd = s.colEnd := rfl
@[simp] theorem loadOrientation_rowStart (b : Byte) : (s.loadOrientation b).rowStart = s.rowStart := rfl
@[simp] theorem loadOrientation_rowEnd (b : Byte) : (s.loadOrientation b).rowEnd = s.rowEnd := rfl
@[simp] theorem loadOrientation_cursorCol (b : Byte) : (s.loadOrientation b).cursorCol = s.cursorCol := rfl
@[simp] theorem loadOrientation_cursorRow (b : Byte) : (s.loadOrientation b).cursorRow = s.cursorRow := rfl
@[simp] theorem loadOrientation_gamma (b : Byte) : (s.loadOrientation b).gamma = s.gamma := rfl
@[simp] theorem loadOrientation_my (b : Byte) : (s.loadOrientation b).my = madctlMY b := rfl
@[simp] theorem loadOrientation_mx (b : Byte) : (s.loadOrientation b).mx = madctlMX b := rfl
@[simp] theorem loadOrientation_mv (b : Byte) : (s.loadOrientation b).mv = madctlMV b := rfl
@[simp] theorem loadOrientation_interfaceFormat (b : Byte) :
    (s.loadOrientation b).interfaceFormat = s.interfaceFormat := rfl
@[simp] theorem loadOrientation_controlFormat (b : Byte) :
    (s.loadOrientation b).controlFormat = s.controlFormat := rfl
@[simp] theorem loadOrientation_sleepIn (b : Byte) : (s.loadOrientation b).sleepIn = s.sleepIn := rfl
@[simp] theorem loadOrientation_displayOn (b : Byte) : (s.loadOrientation b).displayOn = s.displayOn := rfl
@[simp] theorem loadOrientation_tearingOn (b : Byte) : (s.loadOrientation b).tearingOn = s.tearingOn := rfl
@[simp] theorem loadOrientation_inversionOn (b : Byte) : (s.loadOrientation b).inversionOn = s.inversionOn := rfl
@[simp] theorem loadOrientation_idleOn (b : Byte) : (s.loadOrientation b).idleOn = s.idleOn := rfl
@[simp] theorem loadOrientation_dirty (b : Byte) : (s.loadOrientation b).dirty = s.dirty := rfl
@[simp] theorem loadOrientation_fatal (b : Byte) : (s.loadOrientation b).fatal = s.fatal := rfl
@[simp] theorem loadOrientation_fb (b : Byte) : (s.loadOrientation b).fb = s.fb := rfl
@[simp] theorem loadOrientation_pending (b : Byte) : (s.loadOrientation b).pending = s.pending := rfl
@[simp] theorem loadOrientation_result (b : Byte) : (s.loadOrientation b).result = s.result := rfl
@[simp] theorem loadOrientation_draws (b : Byte) : (s.loadOrientation b).draws = s.draws := rfl
@[simp] theorem loadOrientation_powerOns (b : Byte) : (s.loadOrientation b).powerOns = s.powerOns := rfl

/-! ### `loadFormat` -/

@[simp] theorem loadFormat_cfg (b : Byte) : (s.loadFormat b).cfg = s.cfg := rfl
@[simp] theorem loadFormat_pstate (b : Byte) : (s.loadFormat b).pstate = s.pstate := rfl
@[simp] theorem loadFormat_rdSub (b : Byte) : (s.loadFormat b).rdSub = s.rdSub := rfl
@[simp] theorem loadFormat_wrPhase (b : Byte) : (s.loadFormat b).wrPhase = s.wrPhase := rfl
@[simp] theorem loadFormat_shift16 (b : Byte) : (s.loadFormat b).shift16 = s.shift16 := rfl
@[simp] theorem loadFormat_colStart (b : Byte) : (s.loadFormat b).colStart = s.colStart := rfl
@[simp] theorem loadFormat_colEnd (b : Byte) : (s.loadFormat b).colEnd = s.colEnd := rfl
@[simp] theorem loadFormat_rowStart (b : Byte) : (s.loadFormat b).rowStart = s.rowStart := rfl
@[simp] theorem loadFormat_rowEnd (b : Byte) : (s.loadFormat b).rowEnd = s.rowEnd := rfl
@[simp] theorem loadFormat_cursorCol (b : Byte) : (s.loadFormat b).cursorCol = s.cursorCol := rfl
@[simp] theorem loadFormat_cursorRow (b : Byte) : (s.loadFormat b).cursorRow = s.cursorRow := rfl
@[simp] theorem loadFormat_gamma (b : Byte) : (s.loadFormat b).gamma = s.gamma := rfl
@[simp] theorem loadFormat_my (b : Byte) : (s.loadFormat b).my = s.my := rfl
@[simp] theorem loadFormat_mx (b : Byte) : (s.loadFormat b).mx = s.mx := rfl
@[simp] theorem loadFormat_mv (b : Byte) : (s.loadFormat b).mv = s.mv := rfl
@[simp] theorem loadFormat_interfaceFormat (b : Byte) : (s.loadFormat b).interfaceFormat = colmodInterface b := rfl
@[simp] theorem loadFormat_controlFormat (b : Byte) : (s.loadFormat b).controlFormat = colmodControl b := rfl
@[simp] theorem loadFormat_sleepIn (b : Byte) : (s.loadFormat b).sleepIn = s.sleepIn := rfl
@[simp] theorem loadFormat_displayOn (b : Byte) : (s.loadFormat b).displayOn = s.displayOn := rfl
@[simp] theorem loadFormat_tearingOn (b : Byte) : (s.loadFormat b).tearingOn = s.tearingOn := rfl
@[simp] theorem loadFormat_inversionOn (b : Byte) : (s.loadFormat b).inversionOn = s.inversionOn := rfl
@[simp] theorem loadFormat_idleOn (b : Byte) : (s.loadFormat b).idleOn = s.idleOn := rfl
@[simp] theorem loadFormat_dirty (b : Byte) : (s.loadFormat b).dirty = s.dirty := rfl
@[simp] theorem loadFormat_fatal (b : Byte) : (s.loadFormat b).fatal = s.fatal := rfl
@[simp] theorem loadFormat_fb (b : Byte) : (s.loadFormat b).fb = s.fb := rfl
@[simp] theorem loadFormat_pending (b : Byte) : (s.loadFormat b).pending = s.pending := rfl
@[simp] theorem loadFormat_result (b : Byte) : (s.loadFormat b).result = s.result := rfl
@[simp] theorem loadFormat_draws (b : Byte) : (s.loadFormat b).draws = s.draws := rfl
@[simp] theorem loadFormat_powerOns (b : Byte) : (s.loadFormat b).powerOns = s.powerOns := rfl

/-! ### `loadGamma` -/

@[simp] theorem loadGamma_cfg (b : Byte) : (s.loadGamma b).cfg = s.cfg := rfl
@[simp] theorem loadGamma_pstate (b : Byte) : (s.loadGamma b).pstate = s.pstate := rfl
@[simp] theorem loadGamma_rdSub (b : Byte) : (s.loadGamma b).rdSub = s.rdSub := rfl
@[simp] theorem loadGamma_wrPhase (b : Byte) : (s.loadGamma b).wrPhase = s.wrPhase := rfl
@[simp] theorem loadGamma_shift16 (b : Byte) : (s.loadGamma b).shift16 = s.shift16 := rfl
@[simp] theorem loadGamma_colStart (b : Byte) : (s.loadGamma b).colStart = s.colStart := rfl
@[simp] theorem loadGamma_colEnd (b : Byte) : (s.loadGamma b).colEnd = s.colEnd := rfl
@[simp] theorem loadGamma_rowStart (b : Byte) : (s.loadGamma b).rowStart = s.rowStart := rfl
@[simp] theorem loadGamma_rowEnd (b : Byte) : (s.loadGamma b).rowEnd = s.rowEnd := rfl
@[simp] theorem loadGamma_cursorCol (b : Byte) : (s.loadGamma b).cursorCol = s.cursorCol := rfl
@[simp] theorem loadGamma_cursorRow (b : Byte) : (s.loadGamma b).cursorRow = s.cursorRow := rfl
@[simp] theorem loadGamma_gamma (b : Byte) : (s.loadGamma b).gamma = b := rfl
@[simp] theorem loadGamma_my (b : Byte) : (s.loadGamma b).my = s.my := rfl
@[simp] theorem loadGamma_mx (b : Byte) : (s.loadGamma b).mx = s.mx := rfl
@[simp] theorem loadGamma_mv (b : Byte) : (s.loadGamma b).mv = s.mv := rfl
@[simp] theorem loadGamma_interfaceFormat (b : Byte) : (s.loadGamma b).interfaceFormat = s.interfaceFormat := rfl
@[simp] theorem loadGamma_controlFormat (b : Byte) : (s.loadGamma b).controlFormat = s.controlFormat := rfl
@[simp] theorem loadGamma_sleepIn (b : Byte) : (s.loadGamma b).sleepIn = s.sleepIn := rfl
@[simp] theorem loadGamma_displayOn (b : Byte) : (s.loadGamma b).displayOn = s.displayOn := rfl
@[simp] theorem loadGamma_tearingOn (b : Byte) : (s.loadGamma b).tearingOn = s.tearingOn := rfl
@[simp] theorem loadGamma_inversionOn (b : Byte) : (s.loadGamma b).inversionOn = s.inversionOn := rfl
@[simp] theorem loadGamma_idleOn (b : Byte) : (s.loadGamma b).idleOn = s.idleOn := rfl
@[simp] theorem loadGamma_dirty (b : Byte) : (s.loadGamma b).dirty = s.dirty := rfl
@[simp] theorem loadGamma_fatal (b : Byte) : (s.loadGamma b).fatal = s.fatal := rfl
@[simp] theorem loadGamma_fb (b : Byte) : (s.loadGamma b).fb = s.fb := rfl
@[simp] theorem loadGamma_pending (b : Byte) : (s.loadGamma b).pending = s.pending := rfl
@[simp] theorem loadGamma_result (b : Byte) : (s.loadGamma b).result = s.result := rfl
@[simp] theorem loadGamma_draws (b : Byte) : (s.loadGamma b).draws = s.draws := rfl
@[simp] theorem loadGamma_powerOns (b : Byte) : (s.loadGamma b).powerOns = s.powerOns := rfl

/-! ### `setSleepIn` -/

@[simp] theorem setSleepIn_cfg (v : Bool) : (s.setSleepIn v).cfg = s.cfg := rfl
@[simp] theorem setSleepIn_pstate (v : Bool) : (s.setSleepIn v).pstate = s.pstate := rfl
@[simp] theorem setSleepIn_rdSub (v : Bool) : (s.setSleepIn v).rdSub = s.rdSub := rfl
@[simp] theorem setSleepIn_wrPhase (v : Bool) : (s.setSleepIn v).wrPhase = s.wrPhase := rfl
@[simp] theorem setSleepIn_shift16 (v : Bool) : (s.setSleepIn v).shift16 = s.shift16 := rfl
@[simp] theorem setSleepIn_colStart (v : Bool) : (s.setSleepIn v).colStart = s.colStart := rfl
@[simp] theorem setSleepIn_colEnd (v : Bool) : (s.setSleepIn v).colEnd = s.colEnd := rfl
@[simp] theorem setSleepIn_rowStart (v : Bool) : (s.setSleepIn v).rowStart = s.rowStart := rfl
@[simp] theorem setSleepIn_rowEnd (v : Bool) : (s.setSleepIn v).rowEnd = s.rowEnd := rfl
@[simp] theorem setSleepIn_cursorCol (v : Bool) : (s.setSleepIn v).cursorCol = s.cursorCol := rfl
@[simp] theorem setSleepIn_cursorRow (v : Bool) : (s.setSleepIn v).cursorRow = s.cursorRow := rfl
@[simp] theorem setSleepIn_gamma (v : Bool) : (s.setSleepIn v).gamma = s.gamma := rfl
@[simp] theorem setSleepIn_my (v : Bool) : (s.setSleepIn v).my = s.my := rfl
@[simp] theorem setSleepIn_mx (v : Bool) : (s.setSleepIn v).mx = s.mx := rfl
@[simp] theorem setSleepIn_mv (v : Bool) : (s.setSleepIn v).mv = s.mv := rfl
@[simp] theorem setSleepIn_interfaceFormat (v : Bool) : (s.setSleepIn v).interfaceFormat = s.interfaceFormat := rfl
@[simp] theorem setSleepIn_controlFormat (v : Bool) : (s.setSleepIn v).controlFormat = s.controlFormat := rfl
@[simp] theorem setSleepIn_sleepIn (v : Bool) : (s.setSleepIn v).sleepIn = v := rfl
@[simp] theorem setSleepIn_displayOn (v : Bool) : (s.setSleepIn v).displayOn = s.displayOn := rfl
@[simp] theorem setSleepIn_tearingOn (v : Bool) : (s.setSleepIn v).tearingOn = s.tearingOn := rfl
@[simp] theorem setSleepIn_inversionOn (v : Bool) : (s.setSleepIn v).inversionOn = s.inversionOn := rfl
@[simp] theorem setSleepIn_idleOn (v : Bool) : (s.setSleepIn v).idleOn = s.idleOn := rfl
@[simp] theorem setSleepIn_dirty (v : Bool) : (s.setSleepIn v).dirty = s.dirty := rfl
@[simp] theorem setSleepIn_fatal (v : Bool) : (s.setSleepIn v).fatal = s.fatal := rfl
@[simp] theorem setSleepIn_fb (v : Bool) : (s.setSleepIn v).fb = s.fb := rfl
@[simp] theorem setSleepIn_pending (v : Bool) : (s.setSleepIn v).pending = s.pending := rfl
@[simp] theorem setSleepIn_result (v : Bool) : (s.setSleepIn v).result = s.result := rfl
@[simp] theorem setSleepIn_draws (v : Bool) : (s.setSleepIn v).draws = s.draws := rfl
@[simp] theorem setSleepIn_powerOns (v : Bool) : (s.setSleepIn v).powerOns = s.powerOns := rfl

/-! ### `setDisplayOn` -/

@[simp] theorem setDisplayOn_cfg (v : Bool) : (s.setDisplayOn v).cfg = s.cfg := rfl
@[simp] theorem setDisplayOn_pstate (v : Bool) : (s.setDisplayOn v).pstate = s.pstate := rfl
@[simp] theorem setDisplayOn_rdSub (v : Bool) : (s.setDisplayOn v).rdSub = s.rdSub := rfl
@[simp] theorem setDisplayOn_wrPhase (v : Bool) : (s.setDisplayOn v).wrPhase = s.wrPhase := rfl
@[simp] theorem setDisplayOn_shift16 (v : Bool) : (s.setDisplayOn v).shift16 = s.shift16 := rfl
@[simp] theorem setDisplayOn_colStart (v : Bool) : (s.setDisplayOn v).colStart = s.colStart := rfl
@[simp] theorem setDisplayOn_colEnd (v : Bool) : (s.setDisplayOn v).colEnd = s.colEnd := rfl
@[simp] theorem setDisplayOn_rowStart (v : Bool) : (s.setDisplayOn v).rowStart = s.rowStart := rfl
@[simp] theorem setDisplayOn_rowEnd (v : Bool) : (s.setDisplayOn v).rowEnd = s.rowEnd := rfl
@[simp] theorem setDisplayOn_cursorCol (v : Bool) : (s.setDisplayOn v).cursorCol = s.cursorCol := rfl
@[simp] theorem setDisplayOn_cursorRow (v : Bool) : (s.setDisplayOn v).cursorRow = s.cursorRow := rfl
@[simp] theorem setDisplayOn_gamma (v : Bool) : (s.setDisplayOn v).gamma = s.gamma := rfl
@[simp] theorem setDisplayOn_my (v : Bool) : (s.setDisplayOn v).my = s.my := rfl
@[simp] theorem setDisplayOn_mx (v : Bool) : (s.setDisplayOn v).mx = s.mx := rfl
@[simp] theorem setDisplayOn_mv (v : Bool) : (s.setDisplayOn v).mv = s.mv := rfl
@[simp] theorem setDisplayOn_interfaceFormat (v : Bool) :
    (s.setDisplayOn v).interfaceFormat = s.interfaceFormat := rfl
@[simp] theorem setDisplayOn_controlFormat (v : Bool) : (s.setDisplayOn v).controlFormat = s.controlFormat := rfl
@[simp] theorem setDisplayOn_sleepIn (v : Bool) : (s.setDisplayOn v).sleepIn = s.sleepIn := rfl
@[simp] theorem setDisplayOn_displayOn (v : Bool) : (s.setDisplayOn v).displayOn = v := rfl
@[simp] theorem setDisplayOn_tearingOn (v : Bool) : (s.setDisplayOn v).tearingOn = s.tearingOn := rfl
@[simp] theorem setDisplayOn_inversionOn (v : Bool) : (s.setDisplayOn v).inversionOn = s.inversionOn := rfl
@[simp] theorem setDisplayOn_idleOn (v : Bool) : (s.setDisplayOn v).idleOn = s.idleOn := rfl
@[simp] theorem setDisplayOn_dirty (v : Bool) : (s.setDisplayOn v).dirty = s.dirty := rfl
@[simp] theorem setDisplayOn_fatal (v : Bool) : (s.setDisplayOn v).fatal = s.fatal := rfl
@[simp] theorem setDisplayOn_fb (v : Bool) : (s.setDisplayOn v).fb = s.fb := rfl
@[simp] theorem setDisplayOn_pending (v : Bool) : (s.setDisplayOn v).pending = s.pending := rfl
@[simp] theorem setDisplayOn_result (v : Bool) : (s.setDisplayOn v).result = s.result := rfl
@[simp] theorem setDisplayOn_draws (v : Bool) : (s.setDisplayOn v).draws = s.draws := rfl
@[simp] theorem setDisplayOn_powerOns (v : Bool) : (s.setDisplayOn v).powerOns = s.powerOns := rfl

/-! ### `setTearingOn` -/

@[simp] theorem setTearingOn_cfg (v : Bool) : (s.setTearingOn v).cfg = s.cfg := rfl
@[simp] theorem setTearingOn_pstate (v : Bool) : (s.setTearingOn v).pstate = s.pstate := rfl
@[simp] theorem setTearingOn_rdSub (v : Bool) : (s.setTearingOn v).rdSub = s.rdSub := rfl
@[simp] theorem setTearingOn_wrPhase (v : Bool) : (s.setTearingOn v).wrPhase = s.wrPhase := rfl
@[simp] theorem setTearingOn_shift16 (v : Bool) : (s.setTearingOn v).shift16 = s.shift16 := rfl
@[simp] theorem setTearingOn_colStart (v : Bool) : (s.setTearingOn v).colStart = s.colStart := rfl
@[simp] theorem setTearingOn_colEnd (v : Bool) : (s.setTearingOn v).colEnd = s.colEnd := rfl
@[simp] theorem setTearingOn_rowStart (v : Bool) : (s.setTearingOn v).rowStart = s.rowStart := rfl
@[simp] theorem setTearingOn_rowEnd (v : Bool) : (s.setTearingOn v).rowEnd = s.rowEnd := rfl
@[simp] theorem setTearingOn_cursorCol (v : Bool) : (s.setTearingOn v).cursorCol = s.cursorCol := rfl
@[simp] theorem setTearingOn_cursorRow (v : Bool) : (s.setTearingOn v).cursorRow = s.cursorRow := rfl
@[simp] theorem setTearingOn_gamma (v : Bool) : (s.setTearingOn v).gamma = s.gamma := rfl
@[simp] theorem setTearingOn_my (v : Bool) : (s.setTearingOn v).my = s.my := rfl
@[simp] theorem setTearingOn_mx (v : Bool) : (s.setTearingOn v).mx = s.mx := rfl
@[simp] theorem setTearingOn_mv (v : Bool) : (s.setTearingOn v).mv = s.mv := rfl
@[simp] theorem setTearingOn_interfaceFormat (v : Bool) :
    (s.setTearingOn v).interfaceFormat = s.interfaceFormat := rfl
@[simp] theorem setTearingOn_controlFormat (v : Bool) : (s.setTearingOn v).controlFormat = s.controlFormat := rfl
@[simp] theorem setTearingOn_sleepIn (v : Bool) : (s.setTearingOn v).sleepIn = s.sleepIn := rfl
@[simp] theorem setTearingOn_displayOn (v : Bool) : (s.setTearingOn v).displayOn = s.displayOn := rfl
@[simp] theorem setTearingOn_tearingOn (v : Bool) : (s.setTearingOn v).tearingOn = v := rfl
@[simp] theorem setTearingOn_inversionOn (v : Bool) : (s.setTearingOn v).inversionOn = s.inversionOn := rfl
@[simp] theorem setTearingOn_idleOn (v : Bool) : (s.setTearingOn v).idleOn = s.idleOn := rfl
@[simp] theorem setTearingOn_dirty (v : Bool) : (s.setTearingOn v).dirty = s.dirty := rfl
@[simp] theorem setTearingOn_fatal (v : Bool) : (s.setTearingOn v).fatal = s.fatal := rfl
@[simp] theorem setTearingOn_fb (v : Bool) : (s.setTearingOn v).fb = s.fb := rfl
@[simp] theorem setTearingOn_pending (v : Bool) : (s.setTearingOn v).pending = s.pending := rfl
@[simp] theorem setTearingOn_result (v : Bool) : (s.setTearingOn v).result = s.result := rfl
@[simp] theorem setTearingOn_draws (v : Bool) : (s.setTearingOn v).draws = s.draws := rfl
@[simp] theorem setTearingOn_powerOns (v : Bool) : (s.setTearingOn v).powerOns = s.powerOns := rfl

/-! ### `setInversionOn` -/

@[simp] theorem setInversionOn_cfg (v : Bool) : (s.setInversionOn v).cfg = s.cfg := rfl
@[simp] theorem setInversionOn_pstate (v : Bool) : (s.setInversionOn v).pstate = s.pstate := rfl
@[simp] theorem setInversionOn_rdSub (v : Bool) : (s.setInversionOn v).rdSub = s.rdSub := rfl
@[simp] theorem setInversionOn_wrPhase (v : Bool) : (s.setInversionOn v).wrPhase = s.wrPhase := rfl
@[simp] theorem setInversionOn_shift16 (v : Bool) : (s.setInversionOn v).shift16 = s.shift16 := rfl
@[simp] theorem setInversionOn_colStart (v : Bool) : (s.setInversionOn v).colStart = s.colStart := rfl
@[simp] theorem setInversionOn_colEnd (v : Bool) : (s.setInversionOn v).colEnd = s.colEnd := rfl
@[simp] theorem setInversionOn_rowStart (v : Bool) : (s.setInversionOn v).rowStart = s.rowStart := rfl
@[simp] theorem setInversionOn_rowEnd (v : Bool) : (s.setInversionOn v).rowEnd = s.rowEnd := rfl
@[simp] theorem setInversionOn_cursorCol (v : Bool) : (s.setInversionOn v).cursorCol = s.cursorCol := rfl
@[simp] theorem setInversionOn_cursorRow (v : Bool) : (s.setInversionOn v).cursorRow = s.cursorRow := rfl
@[simp] theorem setInversionOn_gamma (v : Bool) : (s.setInversionOn v).gamma = s.gamma := rfl
@[simp] theorem setInversionOn_my (v : Bool) : (s.setInversionOn v).my = s.my := rfl
@[simp] theorem setInversionOn_mx (v : Bool) : (s.setInversionOn v).mx = s.mx := rfl
@[simp] theorem setInversionOn_mv (v : Bool) : (s.setInversionOn v).mv = s.mv := rfl
@[simp] theorem setInversionOn_interfaceFormat (v : Bool) :
    (s.setInversionOn v).interfaceFormat = s.interfaceFormat := rfl
@[simp] theorem setInversionOn_controlFormat (v : Bool) : (s.setInversionOn v).controlFormat = s.controlFormat := rfl
@[simp] theorem setInversionOn_sleepIn (v : Bool) : (s.setInversionOn v).sleepIn = s.sleepIn := rfl
@[simp] theorem setInversionOn_displayOn (v : Bool) : (s.setInversionOn v).displayOn = s.displayOn := rfl
@[simp] theorem setInversionOn_tearingOn (v : Bool) : (s.setInversionOn v).tearingOn = s.tearingOn := rfl
@[simp] theorem setInversionOn_inversionOn (v : Bool) : (s.setInversionOn v).inversionOn = v := rfl
@[simp] theorem setInversionOn_idleOn (v : Bool) : (s.setInversionOn v).idleOn = s.idleOn := rfl
@[simp] theorem setInversionOn_dirty (v : Bool) : (s.setInversionOn v).dirty = s.dirty := rfl
@[simp] theorem setInversionOn_fatal (v : Bool) : (s.setInversionOn v).fatal = s.fatal := rfl
@[simp] theorem setInversionOn_fb (v : Bool) : (s.setInversionOn v).fb = s.fb := rfl
@[simp] theorem setInversionOn_pending (v : Bool) : (s.setInversionOn v).pending = s.pending := rfl
@[simp] theorem setInversionOn_result (v : Bool) : (s.setInversionOn v).result = s.result := rfl
@[simp] theorem setInversionOn_draws (v : Bool) : (s.setInversionOn v).draws = s.draws := rfl
@[simp] theorem setInversionOn_powerOns (v : Bool) : (s.setInversionOn v).powerOns = s.powerOns := rfl

/-! ### `setIdleOn` -/

@[simp] theorem setIdleOn_cfg (v : Bool) : (s.setIdleOn v).cfg = s.cfg := rfl
@[simp] theorem setIdleOn_pstate (v : Bool) : (s.setIdleOn v).pstate = s.pstate := rfl
@[simp] theorem setIdleOn_rdSub (v : Bool) : (s.setIdleOn v).rdSub = s.rdSub := rfl
@[simp] theorem setIdleOn_wrPhase (v : Bool) : (s.setIdleOn v).wrPhase = s.wrPhase := rfl
@[simp] theorem setIdleOn_shift16 (v : Bool) : (s.setIdleOn v).shift16 = s.shift16 := rfl
@[simp] theorem setIdleOn_colStart (v : Bool) : (s.setIdleOn v).colStart = s.colStart := rfl
@[simp] theorem setIdleOn_colEnd (v : Bool) : (s.setIdleOn v).colEnd = s.colEnd := rfl
@[simp] theorem setIdleOn_rowStart (v : Bool) : (s.setIdleOn v).rowStart = s.rowStart := rfl
@[simp] theorem setIdleOn_rowEnd (v : Bool) : (s.setIdleOn v).rowEnd = s.rowEnd := rfl
@[simp] theorem setIdleOn_cursorCol (v : Bool) : (s.setIdleOn v).cursorCol = s.cursorCol := rfl
@[simp] theorem setIdleOn_cursorRow (v : Bool) : (s.setIdleOn v).cursorRow = s.cursorRow := rfl
@[simp] theorem setIdleOn_gamma (v : Bool) : (s.setIdleOn v).gamma = s.gamma := rfl
@[simp] theorem setIdleOn_my (v : Bool) : (s.setIdleOn v).my = s.my := rfl
@[simp] theorem setIdleOn_mx (v : Bool) : (s.setIdleOn v).mx = s.mx := rfl
@[simp] theorem setIdleOn_mv (v : Bool) : (s.setIdleOn v).mv = s.mv := rfl
@[simp] theorem setIdleOn_interfaceFormat (v : Bool) : (s.setIdleOn v).interfaceFormat = s.interfaceFormat := rfl
@[simp] theorem setIdleOn_controlFormat (v : Bool) : (s.setIdleOn v).controlFormat = s.controlFormat := rfl
@[simp] theorem setIdleOn_sleepIn (v : Bool) : (s.setIdleOn v).sleepIn = s.sleepIn := rfl
@[simp] theorem setIdleOn_displayOn (v : Bool) : (s.setIdleOn v).displayOn = s.displayOn := rfl
@[simp] theorem setIdleOn_tearingOn (v : Bool) : (s.setIdleOn v).tearingOn = s.tearingOn := rfl
@[simp] theorem setIdleOn_inversionOn (v : Bool) : (s.setIdleOn v).inversionOn = s.inversionOn := rfl
@[simp] theorem setIdleOn_idleOn (v : Bool) : (s.setIdleOn v).idleOn = v := rfl
@[simp] theorem setIdleOn_dirty (v : Bool) : (s.setIdleOn v).dirty = s.dirty := rfl
@[simp] theorem setIdleOn_fatal (v : Bool) : (s.setIdleOn v).fatal = s.fatal := rfl
@[simp] theorem setIdleOn_fb (v : Bool) : (s.setIdleOn v).fb = s.fb := rfl
@[simp] theorem setIdleOn_pending (v : Bool) : (s.setIdleOn v).pending = s.pending := rfl
@[simp] theorem setIdleOn_result (v : Bool) : (s.setIdleOn v).result = s.result := rfl
@[simp] theorem setIdleOn_draws (v : Bool) : (s.setIdleOn v).draws = s.draws := rfl
@[simp] theorem setIdleOn_powerOns (v : Bool) : (s.setIdleOn v).powerOns = s.powerOns := rfl

/-! ### `clearDirty` -/

@[simp] theorem clearDirty_cfg : (s.clearDirty).cfg = s.cfg := rfl
@[simp] theorem clearDirty_pstate : (s.clearDirty).pstate = s.pstate := rfl
@[simp] theorem clearDirty_rdSub : (s.clearDirty).rdSub = s.rdSub := rfl
@[simp] theorem clearDirty_wrPhase : (s.clearDirty).wrPhase = s.wrPhase := rfl
@[simp] theorem clearDirty_shift16 : (s.clearDirty).shift16 = s.shift16 := rfl
@[simp] theorem clearDirty_colStart : (s.clearDirty).colStart = s.colStart := rfl
@[simp] theorem clearDirty_colEnd : (s.clearDirty).colEnd = s.colEnd := rfl
@[simp] theorem clearDirty_rowStart : (s.clearDirty).rowStart = s.rowStart := rfl
@[simp] theorem clearDirty_rowEnd : (s.clearDirty).rowEnd = s.rowEnd := rfl
@[simp] theorem clearDirty_cursorCol : (s.clearDirty).cursorCol = s.cursorCol := rfl
@[simp] theorem clearDirty_cursorRow : (s.clearDirty).cursorRow = s.cursorRow := rfl
@[simp] theorem clearDirty_gamma : (s.clearDirty).gamma = s.gamma := rfl
@[simp] theorem clearDirty_my : (s.clearDirty).my = s.my := rfl
@[simp] theorem clearDirty_mx : (s.clearDirty).mx = s.mx := rfl
@[simp] theorem clearDirty_mv : (s.clearDirty).mv = s.mv := rfl
@[simp] theorem clearDirty_interfaceFormat : (s.clearDirty).interfaceFormat = s.interfaceFormat := rfl
@[simp] theorem clearDirty_controlFormat : (s.clearDirty).controlFormat = s.controlFormat := rfl
@[simp] theorem clearDirty_sleepIn : (s.clearDirty).sleepIn = s.sleepIn := rfl
@[simp] theorem clearDirty_displayOn : (s.clearDirty).displayOn = s.displayOn := rfl
@[simp] theorem clearDirty_tearingOn : (s.clearDirty).tearingOn = s.tearingOn := rfl
@[simp] theorem clearDirty_inversionOn : (s.clearDirty).inversionOn = s.inversionOn := rfl
@[simp] theorem clearDirty_idleOn : (s.clearDirty).idleOn = s.idleOn := rfl
@[simp] theorem clearDirty_dirty : (s.clearDirty).dirty = false := rfl
@[simp] theorem clearDirty_fatal : (s.clearDirty).fatal = s.fatal := rfl
@[simp] theorem clearDirty_fb : (s.clearDirty).fb = s.fb := rfl
@[simp] theorem clearDirty_pending : (s.clearDirty).pending = s.pending := rfl
@[simp] theorem clearDirty_result : (s.clearDirty).result = s.result := rfl
@[simp] theorem clearDirty_draws : (s.clearDirty).draws = s.draws := rfl
@[simp] theorem clearDirty_powerOns : (s.clearDirty).powerOns = s.powerOns := rfl

/-! ### `countDraw` -/

@[simp] theorem countDraw_cfg : (s.countDraw).cfg = s.cfg := rfl
@[simp] theorem countDraw_pstate : (s.countDraw).pstate = s.pstate := rfl
@[simp] theorem countDraw_rdSub : (s.countDraw).rdSub = s.rdSub := rfl
@[simp] theorem countDraw_wrPhase : (s.countDraw).wrPhase = s.wrPhase := rfl
@[simp] theorem countDraw_shift16 : (s.countDraw).shift16 = s.shift16 := rfl
@[simp] theorem countDraw_colStart : (s.countDraw).colStart = s.colStart := rfl
@[simp] theorem countDraw_colEnd : (s.countDraw).colEnd = s.colEnd := rfl
@[simp] theorem countDraw_rowStart : (s.countDraw).rowStart = s.rowStart := rfl
@[simp] theorem countDraw_rowEnd : (s.countDraw).rowEnd = s.rowEnd := rfl
@[simp] theorem countDraw_cursorCol : (s.countDraw).cursorCol = s.cursorCol := rfl
@[simp] theorem countDraw_cursorRow : (s.countDraw).cursorRow = s.cursorRow := rfl
@[simp] theorem countDraw_gamma : (s.countDraw).gamma = s.gamma := rfl
@[simp] theorem countDraw_my : (s.countDraw).my = s.my := rfl
@[simp] theorem countDraw_mx : (s.countDraw).mx = s.mx := rfl
@[simp] theorem countDraw_mv : (s.countDraw).mv = s.mv := rfl
@[simp] theorem countDraw_interfaceFormat : (s.countDraw).interfaceFormat = s.interfaceFormat := rfl
@[simp] theorem countDraw_controlFormat : (s.countDraw).controlFormat = s.controlFormat := rfl
@[simp] theorem countDraw_sleepIn : (s.countDraw).sleepIn = s.sleepIn := rfl
@[simp] theorem countDraw_displayOn : (s.countDraw).displayOn = s.displayOn := rfl
@[simp] theorem countDraw_tearingOn : (s.countDraw).tearingOn = s.tearingOn := rfl
@[simp] theorem countDraw_inversionOn : (s.countDraw).inversionOn = s.inversionOn := rfl
@[simp] theorem countDraw_idleOn : (s.countDraw).idleOn = s.idleOn := rfl
@[simp] theorem countDraw_dirty : (s.countDraw).dirty = s.dirty := rfl
@[simp] theorem countDraw_fatal : (s.countDraw).fatal = s.fatal := rfl
@[simp] theorem countDraw_fb : (s.countDraw).fb = s.fb := rfl
@[simp] theorem countDraw_pending : (s.countDraw).pending = s.pending := rfl
@[simp] theorem countDraw_result : (s.countDraw).result = s.result := rfl
@[simp] theorem countDraw_draws : (s.countDraw).draws = s.draws + 1 := rfl
@[simp] theorem countDraw_powerOns : (s.countDraw).powerOns = s.powerOns := rfl

/-! ### `fbSet` -/

@[simp] theorem fbSet_cfg (x y : Nat) (c : Cell) : (s.fbSet x y c).cfg = s.cfg := rfl
@[simp] theorem fbSet_pstate (x y : Nat) (c : Cell) : (s.fbSet x y c).pstate = s.pstate := rfl
@[simp] theorem fbSet_rdSub (x y : Nat) (c : Cell) : (s.fbSet x y c).rdSub = s.rdSub := rfl
@[simp] theorem fbSet_wrPhase (x y : Nat) (c : Cell) : (s.fbSet x y c).wrPhase = s.wrPhase := rfl
@[simp] theorem fbSet_shift16 (x y : Nat) (c : Cell) : (s.fbSet x y c).shift16 = s.shift16 := rfl
@[simp] theorem fbSet_colStart (x y : Nat) (c : Cell) : (s.fbSet x y c).colStart = s.colStart := rfl
@[simp] theorem fbSet_colEnd (x y : Nat) (c : Cell) : (s.fbSet x y c).colEnd = s.colEnd := rfl
@[simp] theorem fbSet_rowStart (x y : Nat) (c : Cell) : (s.fbSet x y c).rowStart = s.rowStart := rfl
@[simp] theorem fbSet_rowEnd (x y : Nat) (c : Cell) : (s.fbSet x y c).rowEnd = s.rowEnd := rfl
@[simp] theorem fbSet_cursorCol (x y : Nat) (c : Cell) : (s.fbSet x y c).cursorCol = s.cursorCol := rfl
@[simp] theorem fbSet_cursorRow (x y : Nat) (c : Cell) : (s.fbSet x y c).cursorRow = s.cursorRow := rfl
@[simp] theorem fbSet_gamma (x y : Nat) (c : Cell) : (s.fbSet x y c).gamma = s.gamma := rfl
@[simp] theorem fbSet_my (x y : Nat) (c : Cell) : (s.fbSet x y c).my = s.my := rfl
@[simp] theorem fbSet_mx (x y : Nat) (c : Cell) : (s.fbSet x y c).mx = s.mx := rfl
@[simp] theorem fbSet_mv (x y : Nat) (c : Cell) : (s.fbSet x y c).mv = s.mv := rfl
@[simp] theorem fbSet_interfaceFormat (x y : Nat) (c : Cell) :
    (s.fbSet x y c).interfaceFormat = s.interfaceFormat := rfl
@[simp] theorem fbSet_controlFormat (x y : Nat) (c : Cell) : (s.fbSet x y c).controlFormat = s.controlFormat := rfl
@[simp] theorem fbSet_sleepIn (x y : Nat) (c : Cell) : (s.fbSet x y c).sleepIn = s.sleepIn := rfl
@[simp] theorem fbSet_displayOn (x y : Nat) (c : Cell) : (s.fbSet x y c).displayOn = s.displayOn := rfl
@[simp] theorem fbSet_tearingOn (x y : Nat) (c : Cell) : (s.fbSet x y c).tearingOn = s.tearingOn := rfl
@[simp] theorem fbSet_inversionOn (x y : Nat) (c : Cell) : (s.fbSet x y c).inversionOn = s.inversionOn := rfl
@[simp] theorem fbSet_idleOn (x y : Nat) (c : Cell) : (s.fbSet x y c).idleOn = s.idleOn := rfl
@[simp] theorem fbSet_dirty (x y : Nat) (c : Cell) : (s.fbSet x y c).dirty = true := rfl
@[simp] theorem fbSet_fatal (x y : Nat) (c : Cell) : (s.fbSet x y c).fatal = s.fatal := rfl
@[simp] theorem fbSet_fb (x y : Nat) (c : Cell) : (s.fbSet x y c).fb = s.fb.write (s.cellIndex x y) c := rfl
@[simp] theorem fbSet_pending (x y : Nat) (c : Cell) : (s.fbSet x y c).pending = s.pending := rfl
@[simp] theorem fbSet_result (x y : Nat) (c : Cell) : (s.fbSet x y c).result = s.result := rfl
@[simp] theorem fbSet_draws (x y : Nat) (c : Cell) : (s.fbSet x y c).draws = s.draws := rfl
@[simp] theorem fbSet_powerOns (x y : Nat) (c : Cell) : (s.fbSet x y c).powerOns = s.powerOns := rfl

/-! ### `resetRegisters` -/

@[simp] theorem resetRegisters_cfg : (s.resetRegisters).cfg = s.cfg := rfl
@[simp] theorem resetRegisters_pstate : (s.resetRegisters).pstate = .idle := rfl
@[simp] theorem resetRegisters_rdSub : (s.resetRegisters).rdSub = .r0 := rfl
@[simp] theorem resetRegisters_wrPhase : (s.resetRegisters).wrPhase = false := rfl
@[simp] theorem resetRegisters_shift16 : (s.resetRegisters).shift16 = 0 := rfl
@[simp] theorem resetRegisters_colStart : (s.resetRegisters).colStart = 0 := rfl
@[simp] theorem resetRegisters_colEnd :
    (s.resetRegisters).colEnd = BitVec.ofNat 16 (if s.mv then s.cfg.H - 1 else s.cfg.W - 1) := rfl
@[simp] theorem resetRegisters_rowStart : (s.resetRegisters).rowStart = 0 := rfl
@[simp] theorem resetRegisters_rowEnd :
    (s.resetRegisters).rowEnd = BitVec.ofNat 16 (if s.mv then s.cfg.W - 1 else s.cfg.H - 1) := rfl
@[simp] theorem resetRegisters_cursorCol : (s.resetRegisters).cursorCol = 0 := rfl
@[simp] theorem resetRegisters_cursorRow : (s.resetRegisters).cursorRow = 0 := rfl
@[simp] theorem resetRegisters_gamma : (s.resetRegisters).gamma = 0 := rfl
@[simp] theorem resetRegisters_my : (s.resetRegisters).my = s.my := rfl
@[simp] theorem resetRegisters_mx : (s.resetRegisters).mx = s.mx := rfl
@[simp] theorem resetRegisters_mv : (s.resetRegisters).mv = s.mv := rfl
@[simp] theorem resetRegisters_interfaceFormat : (s.resetRegisters).interfaceFormat = 0b110#3 := rfl
@[simp] theorem resetRegisters_controlFormat : (s.resetRegisters).controlFormat = 0b110#3 := rfl
@[simp] theorem resetRegisters_sleepIn : (s.resetRegisters).sleepIn = true := rfl
@[simp] theorem resetRegisters_displayOn : (s.resetRegisters).displayOn = false := rfl
@[simp] theorem resetRegisters_tearingOn : (s.resetRegisters).tearingOn = false := rfl
@[simp] theorem resetRegisters_inversionOn : (s.resetRegisters).inversionOn = false := rfl
@[simp] theorem resetRegisters_idleOn : (s.resetRegisters).idleOn = false := rfl
@[simp] theorem resetRegisters_dirty : (s.resetRegisters).dirty = s.dirty := rfl
@[simp] theorem resetRegisters_fatal : (s.resetRegisters).fatal = s.fatal := rfl
@[simp] theorem resetRegisters_fb : (s.resetRegisters).fb = s.fb := rfl
@[simp] theorem resetRegisters_pending : (s.resetRegisters).pending = s.pending := rfl
@[simp] theorem resetRegisters_result : (s.resetRegisters).result = s.result := rfl
@[simp] theorem resetRegisters_draws : (s.resetRegisters).draws = s.draws := rfl
@[simp] theorem resetRegisters_powerOns : (s.resetRegisters).powerOns = s.powerOns := rfl

/-! ### `powerOnReset` -/

@[simp] theorem powerOnReset_cfg : (s.powerOnReset).cfg = s.cfg := rfl
@[simp] theorem powerOnReset_pstate : (s.powerOnReset).pstate = .idle := rfl
@[simp] theorem powerOnReset_rdSub : (s.powerOnReset).rdSub = .r0 := rfl
@[simp] theorem powerOnReset_wrPhase : (s.powerOnReset).wrPhase = false := rfl
@[simp] theorem powerOnReset_shift16 : (s.powerOnReset).shift16 = 0 := rfl
@[simp] theorem powerOnReset_colStart : (s.powerOnReset).colStart = 0 := rfl
@[simp] theorem powerOnReset_colEnd : (s.powerOnReset).colEnd = BitVec.ofNat 16 (s.cfg.W - 1) := rfl
@[simp] theorem powerOnReset_rowStart : (s.powerOnReset).rowStart = 0 := rfl
@[simp] theorem powerOnReset_rowEnd : (s.powerOnReset).rowEnd = BitVec.ofNat 16 (s.cfg.H - 1) := rfl
@[simp] theorem powerOnReset_cursorCol : (s.powerOnReset).cursorCol = 0 := rfl
@[simp] theorem powerOnReset_cursorRow : (s.powerOnReset).cursorRow = 0 := rfl
@[simp] theorem powerOnReset_gamma : (s.powerOnReset).gamma = 0 := rfl
@[simp] theorem powerOnReset_my : (s.powerOnReset).my = false := rfl
@[simp] theorem powerOnReset_mx : (s.powerOnReset).mx = false := rfl
@[simp] theorem powerOnReset_mv : (s.powerOnReset).mv = false := rfl
@[simp] theorem powerOnReset_interfaceFormat : (s.powerOnReset).interfaceFormat = 0b110#3 := rfl
@[simp] theorem powerOnReset_controlFormat : (s.powerOnReset).controlFormat = 0b110#3 := rfl
@[simp] theorem powerOnReset_sleepIn : (s.powerOnReset).sleepIn = true := rfl
@[simp] theorem powerOnReset_displayOn : (s.powerOnReset).displayOn = false := rfl
@[simp] theorem powerOnReset_tearingOn : (s.powerOnReset).tearingOn = false := rfl
@[simp] theorem powerOnReset_inversionOn : (s.powerOnReset).inversionOn = false := rfl
@[simp] theorem powerOnReset_idleOn : (s.powerOnReset).idleOn = false := rfl
@[simp] theorem powerOnReset_dirty : (s.powerOnReset).dirty = false := rfl
@[simp] theorem powerOnReset_fatal : (s.powerOnReset).fatal = false := rfl
@[simp] theorem powerOnReset_fb : (s.powerOnReset).fb = [] := rfl
@[simp] theorem powerOnReset_pending : (s.powerOnReset).pending = s.pending := rfl
@[simp] theorem powerOnReset_result : (s.powerOnReset).result = .quiet := rfl
@[simp] theorem powerOnReset_draws : (s.powerOnReset).draws = s.draws := rfl
@[simp] theorem powerOnReset_powerOns : (s.powerOnReset).powerOns = s.powerOns + 1 := rfl

end Sys2Proof.Machine.State
end

