-- ==== Sys2Proof/Laws/Ops.lean ====
section
/-! SUPPORT. One lemma per shared operation that says everything it can do; provers cite these and unfold nothing. -/

namespace Sys2Proof.Machine

variable {s t : State}

/-! ### The gate and the format check -/

theorem unlessFatal_of_not_fatal (f : State → State) (h : s.fatal = false) :
    s.unlessFatal f = .next (f s) := by
  simp [State.unlessFatal, h]

theorem unlessFatal_of_fatal (f : State → State) (h : s.fatal = true) :
    s.unlessFatal f = .next s.refuse := by
  simp [State.unlessFatal, h]

/-- Everything the gate can do: refuse, or run the effect. -/
theorem unlessFatal_cases {f : State → State} (h : s.unlessFatal f = .next t) :
    (s.fatal = true ∧ t = s.refuse) ∨ (s.fatal = false ∧ t = f s) := by
  cases hf : s.fatal
  · rw [unlessFatal_of_not_fatal f hf] at h
    cases h
    exact .inr ⟨rfl, rfl⟩
  · rw [unlessFatal_of_fatal f hf] at h
    cases h
    exact .inl ⟨rfl, rfl⟩

/-- Everything the format check can do: run the effect, or raise the fatal fault. -/
theorem ifFormat18_cases (s : State) (f : State → State) :
    (s.controlFormat = format18 ∧ s.ifFormat18 f = f s) ∨
      (s.controlFormat ≠ format18 ∧ s.ifFormat18 f = s.raiseFatal) := by
  by_cases h : s.controlFormat = format18 <;> simp [State.ifFormat18, h]

/-! ### Coordinates and the framebuffer -/

/-- When `Transform` is valid, and with what position (43_coord_transform.md R210, R211). -/
theorem transform_eq_some {W H : Nat} {my mx mv : Bool} {col row : Word} {x y : Nat} :
    transform W H my mx mv col row = some (x, y) ↔
      physX W H my mx mv col.toNat row.toNat = x ∧ physY W H my mx mv col.toNat row.toNat = y ∧
        x < W ∧ y < H := by
  unfold transform
  generalize physX W H my mx mv col.toNat row.toNat = px
  generalize physY W H my mx mv col.toNat row.toNat = py
  simp only
  split
  · simp only [Option.some.injEq, Prod.mk.injEq]
    omega
  · simp only [reduceCtorEq, false_iff]
    omega

/-- A valid position is on the panel. -/
theorem cursorPosition_lt {x y : Nat} (h : s.cursorPosition = some (x, y)) :
    x < s.cfg.W ∧ y < s.cfg.H :=
  (transform_eq_some.1 h).2.2

/-- A panel position is a cell of the framebuffer. -/
theorem cellIndex_lt {x y : Nat} (hx : x < s.cfg.W) (hy : y < s.cfg.H) :
    s.cellIndex x y < s.cfg.W * s.cfg.H := by
  have h : (y + 1) * s.cfg.W ≤ s.cfg.H * s.cfg.W := Nat.mul_le_mul_right _ hy
  unfold State.cellIndex
  nlinarith

/-- Different panel positions are different cells. -/
theorem cellIndex_inj {x y x' y' : Nat} (hx : x < s.cfg.W) (hx' : x' < s.cfg.W)
    (h : s.cellIndex x y = s.cellIndex x' y') : x = x' ∧ y = y' := by
  unfold State.cellIndex at h
  have hm := congrArg (· % s.cfg.W) h
  have hd := congrArg (· / s.cfg.W) h
  have hW : 0 < s.cfg.W := by omega
  simp only [Nat.mul_add_mod_self_right, Nat.mod_eq_of_lt hx, Nat.mod_eq_of_lt hx'] at hm
  refine ⟨hm, ?_⟩
  simpa [Nat.add_comm, Nat.add_mul_div_right _ _ hW, Nat.div_eq_of_lt hx, Nat.div_eq_of_lt hx'] using hd

/-- Everything a cell read after a store can be. -/
theorem fbGet_fbSet (s : State) (x y x' y' : Nat) (c : Cell) :
    (s.fbSet x y c).fbGet x' y' =
      if s.cellIndex x' y' = s.cellIndex x y then c else s.fbGet x' y' := by
  unfold State.fbGet
  simp only [State.fbSet_fb, State.fbSet_powerOns]
  have h : (s.fbSet x y c).cellIndex x' y' = s.cellIndex x' y' := rfl
  rw [h, Memory.read?_write]
  split <;> rfl

/-! ### The pixel steps -/

/-- Everything a pixel write can do: store and advance, or only advance. -/
theorem writePixel_cases (s : State) (p : Word) :
    (∃ x y, s.cursorPosition = some (x, y) ∧
        s.writePixel p = ((s.fbSet x y (encode565 p)).advanceCursor).reply .stored) ∨
      (s.cursorPosition = none ∧ s.writePixel p = s.advanceCursor.reply .quiet) := by
  unfold State.writePixel
  cases h : s.cursorPosition with
  | none => exact .inr ⟨rfl, rfl⟩
  | some q => exact .inl ⟨q.1, q.2, rfl, rfl⟩

/-- Everything half a pixel write can do: keep the high byte, or write the pixel. -/
theorem writeHalf_cases (s : State) (b : Byte) :
    (s.wrPhase = false ∧ s.writeHalf b = ((s.shift8 b).setWrPhase true).reply .quiet) ∨
      (s.wrPhase = true ∧
        s.writeHalf b = ((s.shift8 b).setWrPhase false).writePixel (shiftByte s.shift16 b)) := by
  cases h : s.wrPhase <;> simp [State.writeHalf, h]

/-! ### The walk -/

/-- The column after a pixel step, as a number: no 16-bit wrap (42_address_window.md R203). -/
theorem nextCol_toNat (a e c : Word) :
    (nextCol a e c).toNat = if c.toNat + 1 > e.toNat then a.toNat else c.toNat + 1 := by
  have he := e.isLt
  unfold nextCol
  split
  · rfl
  · rw [BitVec.toNat_add, show (1 : Word).toNat = 1 from rfl]
    omega

/-- The row after a pixel step, as a number. -/
theorem nextRow_toNat (ce a e c r : Word) :
    (nextRow ce a e c r).toNat =
      if c.toNat + 1 > ce.toNat then (if r.toNat + 1 > e.toNat then a.toNat else r.toNat + 1)
      else r.toNat := by
  have he := e.isLt
  unfold nextRow
  split
  · split
    · rfl
    · rw [BitVec.toNat_add, show (1 : Word).toNat = 1 from rfl]
      omega
  · rfl

/-- No number of pixel steps moves the window. -/
theorem iterate_advanceCursor_window (s : State) (k : Nat) :
    (State.advanceCursor^[k] s).colStart = s.colStart ∧ (State.advanceCursor^[k] s).colEnd = s.colEnd ∧
      (State.advanceCursor^[k] s).rowStart = s.rowStart ∧ (State.advanceCursor^[k] s).rowEnd = s.rowEnd := by
  induction k with
  | zero => simp
  | succ k ih => simp [Function.iterate_succ_apply', ih]

/-! ### Operands -/

/-- Two shifts overwrite the field whatever it held (41_protocol_fsm.md R163). -/
theorem shiftByte_shiftByte (x : Word) (a b : Byte) : shiftByte (shiftByte x a) b = a ++ b := by
  apply BitVec.eq_of_getLsbD_eq
  intro i hi
  rw [show (a ++ b : Word).getLsbD i = (a ++ b : BitVec (8 + 8)).getLsbD i from rfl,
    BitVec.getLsbD_append]
  by_cases h : i < 8
  · simp [shiftByte, h, hi]
  · simp [shiftByte, h, hi, BitVec.getLsbD_of_ge b i (by omega)]
    intro _
    omega

/-! ### The copied surface -/

/-- A surface has one pixel per position. -/
theorem Surface.build_length (w h : Nat) (f : Nat → Nat → Colour) :
    (Surface.build w h f).pixels.length = w * h := by
  simp [Surface.build, List.length_flatMap, Nat.mul_comm]

/-- The pixel of a surface at a position. -/
theorem Surface.build_getElem? (w h : Nat) (f : Nat → Nat → Colour) {sx sy : Nat} (hx : sx < w) (hy : sy < h) :
    (Surface.build w h f).pixels[sy * w + sx]? = some (f sx sy) := by
  simp only [Surface.build]
  induction h with
  | zero => omega
  | succ h ih =>
    have len : ((List.range h).flatMap fun y => (List.range w).map fun x => f x y).length = h * w := by
      simp [List.length_flatMap]
    rw [List.range_succ, List.flatMap_append]
    by_cases hh : sy < h
    · rw [List.getElem?_append_left (by rw [len]; nlinarith [Nat.mul_le_mul_right w hh]), ih hh]
    · obtain rfl : sy = h := by omega
      rw [List.getElem?_append_right (by rw [len]; omega), len]
      simp [hx]

end Sys2Proof.Machine
end

