-- ==== Sys2Proof/Laws/PerInstr.lean ====
section
/-! SUPPORT. Per-instruction family `EncodeInSpace`: the operation that presents a well-formed instruction exists on
the wires. -/

namespace Sys2Proof.Laws.EncodeInSpace

/-- The encoding of a well-formed instruction has an offset of `ADDR_W` bits (10_state.md R46). -/
def Statement (i : Instr) : Prop :=
  ∀ (cfg : Config) (ps : PState) (rs : RdSub), cfg.wf = true → i.wf cfg ps rs = true →
    (encode cfg i).inBusSpace cfg = true

variable {cfg : Config}

theorem offData_lt (h : cfg.wf = true) : cfg.offData < 2 ^ cfg.addrW := by
  simp only [Config.wf, Bool.and_eq_true, decide_eq_true_eq] at h
  exact h.2.2

theorem offCmd_lt (h : cfg.wf = true) : cfg.offCmd < 2 ^ cfg.addrW := by
  have := offData_lt h
  simp only [Config.wf, Bool.and_eq_true, decide_eq_true_eq] at h
  omega

theorem of_command (h : cfg.wf = true) (c : Byte) : (commandWrite cfg c).inBusSpace cfg = true :=
  decide_eq_true (offCmd_lt h)

theorem of_write (h : cfg.wf = true) (w : Word) : (dataWrite cfg w).inBusSpace cfg = true :=
  decide_eq_true (offData_lt h)

theorem of_read (h : cfg.wf = true) : (dataRead cfg).inBusSpace cfg = true :=
  decide_eq_true (offData_lt h)

theorem swreset : Statement .swreset := fun _ _ _ h _ => of_command h _
theorem rddid : Statement .rddid := fun _ _ _ h _ => of_command h _
theorem rddst : Statement .rddst := fun _ _ _ h _ => of_command h _
theorem rddpm : Statement .rddpm := fun _ _ _ h _ => of_command h _
theorem rddmadctl : Statement .rddmadctl := fun _ _ _ h _ => of_command h _
theorem rddcolmod : Statement .rddcolmod := fun _ _ _ h _ => of_command h _
theorem rddim : Statement .rddim := fun _ _ _ h _ => of_command h _
theorem rddsm : Statement .rddsm := fun _ _ _ h _ => of_command h _
theorem rddsdr : Statement .rddsdr := fun _ _ _ h _ => of_command h _
theorem slpin : Statement .slpin := fun _ _ _ h _ => of_command h _
theorem slpout : Statement .slpout := fun _ _ _ h _ => of_command h _
theorem invoff : Statement .invoff := fun _ _ _ h _ => of_command h _
theorem invon : Statement .invon := fun _ _ _ h _ => of_command h _
theorem gamset : Statement .gamset := fun _ _ _ h _ => of_command h _
theorem dispoff : Statement .dispoff := fun _ _ _ h _ => of_command h _
theorem dispon : Statement .dispon := fun _ _ _ h _ => of_command h _
theorem caset : Statement .caset := fun _ _ _ h _ => of_command h _
theorem raset : Statement .raset := fun _ _ _ h _ => of_command h _
theorem ramwr : Statement .ramwr := fun _ _ _ h _ => of_command h _
theorem ramrd : Statement .ramrd := fun _ _ _ h _ => of_command h _
theorem teoff : Statement .teoff := fun _ _ _ h _ => of_command h _
theorem teon : Statement .teon := fun _ _ _ h _ => of_command h _
theorem madctl : Statement .madctl := fun _ _ _ h _ => of_command h _
theorem idmoff : Statement .idmoff := fun _ _ _ h _ => of_command h _
theorem idmon : Statement .idmon := fun _ _ _ h _ => of_command h _
theorem colmod : Statement .colmod := fun _ _ _ h _ => of_command h _
theorem unknownCmd (c : Byte) : Statement (.unknownCmd c) := fun _ _ _ h _ => of_command h _
theorem dwCaset0 (b : Byte) : Statement (.dwCaset0 b) := fun _ _ _ h _ => of_write h _
theorem dwCaset1 (b : Byte) : Statement (.dwCaset1 b) := fun _ _ _ h _ => of_write h _
theorem dwCaset2 (b : Byte) : Statement (.dwCaset2 b) := fun _ _ _ h _ => of_write h _
theorem dwCaset3 (b : Byte) : Statement (.dwCaset3 b) := fun _ _ _ h _ => of_write h _
theorem dwRaset0 (b : Byte) : Statement (.dwRaset0 b) := fun _ _ _ h _ => of_write h _
theorem dwRaset1 (b : Byte) : Statement (.dwRaset1 b) := fun _ _ _ h _ => of_write h _
theorem dwRaset2 (b : Byte) : Statement (.dwRaset2 b) := fun _ _ _ h _ => of_write h _
theorem dwRaset3 (b : Byte) : Statement (.dwRaset3 b) := fun _ _ _ h _ => of_write h _
theorem dwMadctl0 (b : Byte) : Statement (.dwMadctl0 b) := fun _ _ _ h _ => of_write h _
theorem dwColmod0 (b : Byte) : Statement (.dwColmod0 b) := fun _ _ _ h _ => of_write h _
theorem dwGamset0 (b : Byte) : Statement (.dwGamset0 b) := fun _ _ _ h _ => of_write h _
theorem dwWriteMem (p : Word) : Statement (.dwWriteMem p) := fun _ _ _ h _ => of_write h _
theorem dwWriteMemBeats2 (b : Byte) : Statement (.dwWriteMemBeats2 b) := fun _ _ _ h _ => of_write h _
theorem dwIgnored (w : Word) : Statement (.dwIgnored w) := fun _ _ _ h _ => of_write h _
theorem drRddid0 : Statement .drRddid0 := fun _ _ _ h _ => of_read h
theorem drRddid1 : Statement .drRddid1 := fun _ _ _ h _ => of_read h
theorem drRddid2 : Statement .drRddid2 := fun _ _ _ h _ => of_read h
theorem drRddid3 : Statement .drRddid3 := fun _ _ _ h _ => of_read h
theorem drRddst0 : Statement .drRddst0 := fun _ _ _ h _ => of_read h
theorem drRddst1 : Statement .drRddst1 := fun _ _ _ h _ => of_read h
theorem drRddst2 : Statement .drRddst2 := fun _ _ _ h _ => of_read h
theorem drRddst3 : Statement .drRddst3 := fun _ _ _ h _ => of_read h
theorem drRddpm0 : Statement .drRddpm0 := fun _ _ _ h _ => of_read h
theorem drRddpm1 : Statement .drRddpm1 := fun _ _ _ h _ => of_read h
theorem drRddpm2 : Statement .drRddpm2 := fun _ _ _ h _ => of_read h
theorem drRddpm3 : Statement .drRddpm3 := fun _ _ _ h _ => of_read h
theorem drRddmadctl0 : Statement .drRddmadctl0 := fun _ _ _ h _ => of_read h
theorem drRddmadctl1 : Statement .drRddmadctl1 := fun _ _ _ h _ => of_read h
theorem drRddmadctl2 : Statement .drRddmadctl2 := fun _ _ _ h _ => of_read h
theorem drRddmadctl3 : Statement .drRddmadctl3 := fun _ _ _ h _ => of_read h
theorem drRddcolmod0 : Statement .drRddcolmod0 := fun _ _ _ h _ => of_read h
theorem drRddcolmod1 : Statement .drRddcolmod1 := fun _ _ _ h _ => of_read h
theorem drRddcolmod2 : Statement .drRddcolmod2 := fun _ _ _ h _ => of_read h
theorem drRddcolmod3 : Statement .drRddcolmod3 := fun _ _ _ h _ => of_read h
theorem drRddim0 : Statement .drRddim0 := fun _ _ _ h _ => of_read h
theorem drRddim1 : Statement .drRddim1 := fun _ _ _ h _ => of_read h
theorem drRddim2 : Statement .drRddim2 := fun _ _ _ h _ => of_read h
theorem drRddim3 : Statement .drRddim3 := fun _ _ _ h _ => of_read h
theorem drRddsm0 : Statement .drRddsm0 := fun _ _ _ h _ => of_read h
theorem drRddsm1 : Statement .drRddsm1 := fun _ _ _ h _ => of_read h
theorem drRddsm2 : Statement .drRddsm2 := fun _ _ _ h _ => of_read h
theorem drRddsm3 : Statement .drRddsm3 := fun _ _ _ h _ => of_read h
theorem drRddsdr0 : Statement .drRddsdr0 := fun _ _ _ h _ => of_read h
theorem drRddsdr1 : Statement .drRddsdr1 := fun _ _ _ h _ => of_read h
theorem drRddsdr2 : Statement .drRddsdr2 := fun _ _ _ h _ => of_read h
theorem drRddsdr3 : Statement .drRddsdr3 := fun _ _ _ h _ => of_read h
theorem drReadMem0 : Statement .drReadMem0 := fun _ _ _ h _ => of_read h
theorem drReadMem1 : Statement .drReadMem1 := fun _ _ _ h _ => of_read h
theorem drReadMem2 : Statement .drReadMem2 := fun _ _ _ h _ => of_read h
theorem drIgnored : Statement .drIgnored := fun _ _ _ h _ => of_read h
theorem unmapped (off : Nat) (we : Bool) (wdata : Word) : Statement (.unmapped off we wdata) := by
  intro cfg _ _ _ h
  simp only [Instr.wf, Bool.and_eq_true] at h
  exact h.1.1
theorem extReset : Statement .extReset := fun _ _ _ _ _ => rfl
theorem powerOn : Statement .powerOn := fun _ _ _ _ _ => rfl
theorem paint : Statement .paint := fun _ _ _ _ _ => rfl

end Sys2Proof.Laws.EncodeInSpace
end

