-- ==== Sys2Proof/Laws/Step.lean ====
section
/-! SUPPORT. What one step can do, said once. -/

namespace Sys2Proof.Machine

/-- Everything a step that goes on can be: a wait, or the execution of the decoded oldest operation. -/
theorem step_cases {s t : State} (h : step s = .next t) :
    (s.pending = [] ∧ t = s) ∨
      ∃ op rest i, s.pending = op :: rest ∧ decode s.cfg s.pstate s.rdSub op = .ok i ∧
        exec i { s with pending := rest } = .next t := by
  unfold step at h
  split at h
  · cases h
    exact .inl ⟨‹_›, rfl⟩
  · split at h
    · exact .inr ⟨_, _, _, ‹_›, ‹_›, h⟩
    · cases h

/-- Everything the decoder can reject: an offset that does not fit the offset input. -/
theorem decode_error {cfg : Config} {ps : PState} {rs : RdSub} {op : Operation} {e : DecodeError}
    (h : decode cfg ps rs op = .error e) :
    ∃ off we w, op = .bus off we w ∧ e = .offsetOutsideBusSpace off ∧ ¬ off < 2 ^ cfg.addrW := by
  cases op with
  | bus off we w =>
    by_cases hlt : off < 2 ^ cfg.addrW
    · simp only [decode, hlt, if_true] at h
      split at h
      · cases h
      · split at h
        · cases h
        · split at h <;> cases h
    · simp only [decode, hlt, if_false, Except.error.injEq] at h
      exact ⟨off, we, w, rfl, h.symm, hlt⟩
  | extReset => cases h
  | powerOn => cases h
  | paint => cases h

end Sys2Proof.Machine
end

