-- ==== Sys2Proof/Machine/HostInterface.lean ====
section
/-! DEFINITION. The host side: the transaction lines and the pseudo-operations of 30_encoding.md R105 and R106 as
operations, and how agents present operations. No meaning calls anything here. -/

namespace Sys2Proof.Machine

/-- `XW off, wwww`: a write to an unmapped offset (R105). -/
def strayWrite (off : Nat) (w : Word) : Operation := .bus off true w

/-- `XR off`: a read of an unmapped offset or of `OFF_CMD` (R105). -/
def strayRead (off : Nat) : Operation := .bus off false 0

/-- The four parameter writes of two 16-bit values, high byte first (20_memory.md R60). -/
def wordsPayload (cfg : Config) (a b : Word) : List Operation :=
  [paramWrite cfg (a.extractLsb' 8 8), paramWrite cfg (a.extractLsb' 0 8),
   paramWrite cfg (b.extractLsb' 8 8), paramWrite cfg (b.extractLsb' 0 8)]

/-- `CASET xs, xe` (R106). -/
def casetOps (cfg : Config) (xs xe : Word) : List Operation := encode cfg .caset :: wordsPayload cfg xs xe

/-- `RASET ys, ye` (R106). -/
def rasetOps (cfg : Config) (ys ye : Word) : List Operation := encode cfg .raset :: wordsPayload cfg ys ye

/-- `WINDOW xs, xe, ys, ye` (R106). -/
def windowOps (cfg : Config) (xs xe ys ye : Word) : List Operation := casetOps cfg xs xe ++ rasetOps cfg ys ye

/-- `MADCTL v` (R106). -/
def madctlOps (cfg : Config) (v : Byte) : List Operation := [encode cfg .madctl, paramWrite cfg v]

/-- `COLMOD v` (R106). -/
def colmodOps (cfg : Config) (v : Byte) : List Operation := [encode cfg .colmod, paramWrite cfg v]

/-- `GAMSET v` (R106). -/
def gamsetOps (cfg : Config) (v : Byte) : List Operation := [encode cfg .gamset, paramWrite cfg v]

/-- `RAMWR p0, p1, ...` (R106). -/
def ramwrOps (cfg : Config) (ps : List Word) : List Operation := encode cfg .ramwr :: ps.map (dataWrite cfg)

/-- `RAMRD n` (R106). -/
def ramrdOps (cfg : Config) (n : Nat) : List Operation := encode cfg .ramrd :: List.replicate n (dataRead cfg)

/-- `RDDID` (R106). -/
def rddidOps (cfg : Config) : List Operation := encode cfg .rddid :: List.replicate 4 (dataRead cfg)

/-- The requests two or more agents raise in one cycle of a realisation (46_display_ctrl_top.md R257). -/
structure Requests where
  powerOn  : Bool
  extReset : Bool
  bus      : Option Operation
  paint    : Bool
deriving DecidableEq, Repr

/-- Coinciding requests are taken as `POWER_ON`, `EXT_RESET`, bus, `PAINT` (R257; log 16). -/
def Requests.ordered (r : Requests) : List Operation :=
  (if r.powerOn then [.powerOn] else []) ++ (if r.extReset then [.extReset] else []) ++
    r.bus.toList ++ (if r.paint then [.paint] else [])

/-- Agents present operations: they are taken after those already presented (20_memory.md R71; log 1). -/
def State.present (s : State) (ops : List Operation) : State := { s with pending := s.pending ++ ops }

end Sys2Proof.Machine
end

