-- ==== Sys2Proof/Tests/Slice0.lean ====
section
/-! SUPPORT. The tests: ill-formed terms refused, decoding of every constructor from words written out of the spec,
one step per instruction with values of 95_test_vectors.md, and a witness for the hypotheses of every obligation.
Offsets are those of the reference configuration: `OFF_CMD` is 0, `OFF_DATA` is 1, `ADDR_W` is 8. -/

namespace Sys2Proof.Tests

open Sys2Proof.Machine

/-- The reference configuration. -/
abbrev cfg0 : Config := Config.reference

/-- The reference configuration with two data writes per pixel. -/
abbrev cfgBeats2 : Config := { Config.reference with pixelBeats := .two }

/-- The state after reset, in another protocol state. -/
def inState (ps : PState) : State := { State.reset with pstate := ps }

/-- The state of one step that takes `op`; none where the step stops. -/
def stepped (s : State) (op : Operation) : Option State :=
  match step { s with pending := [op] } with
  | .next t => some t
  | .fault _ => none
  | .refused _ => none

/-- What a state loads or answers at a data read. -/
def dataReadAt (s : State) : Option State := stepped s (.bus 1 false 0)

/-- One step of a data write. -/
def dataWriteAt (s : State) (w : Word) : Option State := stepped s (.bus 1 true w)

/-- One step of a command write. -/
def commandAt (s : State) (w : Word) : Option State := stepped s (.bus 0 true w)

/-! ### Well-formedness: an ill-formed term for each check -/

theorem test_wf_config_bounds :
    cfg0.wf = true ∧
    Config.wf { cfg0 with W := 0 } = false ∧ Config.wf { cfg0 with W := 65537 } = false ∧
    Config.wf { cfg0 with H := 0 } = false ∧ Config.wf { cfg0 with H := 65537 } = false ∧
    Config.wf { cfg0 with W := 65536, H := 65536 } = true ∧ Config.wf { cfg0 with offCmd := 1 } = false ∧
    Config.wf { cfg0 with offData := 256 } = false ∧ Config.wf { cfg0 with offData := 255 } = true := by
  decide

theorem test_wf_bus_space :
    (Operation.bus 256 true 0).inBusSpace cfg0 = false ∧
    (Operation.bus 255 true 0).inBusSpace cfg0 = true := by decide

theorem test_wf_unknown_command_has_no_row :
    (Instr.unknownCmd 0x29).wf cfg0 .idle .r0 = false ∧
    (Instr.unknownCmd 0x01).wf cfg0 .idle .r0 = false ∧ (Instr.unknownCmd 0xB2).wf cfg0 .idle .r0 = true := by
  decide

theorem test_wf_data_write_needs_its_state :
    ∀ r ∈ ([
      (Instr.dwCaset0 0, PState.caset .s1), (Instr.dwCaset1 0, PState.caset .s2),
      (Instr.dwCaset2 0, PState.caset .s3), (Instr.dwCaset3 0, PState.raset .s0),
      (Instr.dwRaset0 0, PState.raset .s1), (Instr.dwRaset1 0, PState.raset .s2),
      (Instr.dwRaset2 0, PState.raset .s3), (Instr.dwRaset3 0, PState.madctl0),
      (Instr.dwMadctl0 0, PState.colmod0), (Instr.dwColmod0 0, PState.gamset0),
      (Instr.dwGamset0 0, PState.caset .s0)] : List (Instr × PState)),
      r.1.wf cfg0 r.2 .r0 = false := by decide

theorem test_wf_data_read_needs_its_state_1 :
    ∀ r ∈ ([
      (Instr.drRddid0, PState.read .rddid .s1), (Instr.drRddid1, PState.read .rddid .s2),
      (Instr.drRddid2, PState.read .rddid .s3), (Instr.drRddid3, PState.read .rddst .s0),
      (Instr.drRddst0, PState.read .rddst .s1), (Instr.drRddst1, PState.read .rddst .s2),
      (Instr.drRddst2, PState.read .rddst .s3), (Instr.drRddst3, PState.read .rddid .s0)] : List (Instr × PState)),
      r.1.wf cfg0 r.2 .r0 = false := by decide

theorem test_wf_data_read_needs_its_state_2 :
    ∀ r ∈ ([
      (Instr.drRddpm0, PState.read .rddpm .s1), (Instr.drRddpm1, PState.read .rddpm .s2),
      (Instr.drRddpm2, PState.read .rddpm .s3), (Instr.drRddpm3, PState.read .rddmadctl .s0),
      (Instr.drRddmadctl0, PState.read .rddmadctl .s1), (Instr.drRddmadctl1, PState.read .rddmadctl .s2),
      (Instr.drRddmadctl2, PState.read .rddmadctl .s3), (Instr.drRddmadctl3, PState.read .rddpm .s0)] : List (Instr × PState)),
      r.1.wf cfg0 r.2 .r0 = false := by decide

theorem test_wf_data_read_needs_its_state_3 :
    ∀ r ∈ ([
      (Instr.drRddcolmod0, PState.read .rddcolmod .s1), (Instr.drRddcolmod1, PState.read .rddcolmod .s2),
      (Instr.drRddcolmod2, PState.read .rddcolmod .s3), (Instr.drRddcolmod3, PState.read .rddim .s0),
      (Instr.drRddim0, PState.read .rddim .s1), (Instr.drRddim1, PState.read .rddim .s2),
      (Instr.drRddim2, PState.read .rddim .s3), (Instr.drRddim3, PState.read .rddcolmod .s0)] : List (Instr × PState)),
      r.1.wf cfg0 r.2 .r0 = false := by decide

theorem test_wf_data_read_needs_its_state_4 :
    ∀ r ∈ ([
      (Instr.drRddsm0, PState.read .rddsm .s1), (Instr.drRddsm1, PState.read .rddsm .s2),
      (Instr.drRddsm2, PState.read .rddsm .s3), (Instr.drRddsm3, PState.read .rddsdr .s0),
      (Instr.drRddsdr0, PState.read .rddsdr .s1), (Instr.drRddsdr1, PState.read .rddsdr .s2),
      (Instr.drRddsdr2, PState.read .rddsdr .s3), (Instr.drRddsdr3, PState.read .rddsm .s0)] : List (Instr × PState)),
      r.1.wf cfg0 r.2 .r0 = false := by decide

theorem test_wf_pixel_write_needs_its_beats :
    (Instr.dwWriteMem 0).wf cfg0 .idle .r0 = false ∧
    (Instr.dwWriteMem 0).wf cfgBeats2 .writeMem .r0 = false ∧
    (Instr.dwWriteMemBeats2 0).wf cfg0 .writeMem .r0 = false ∧
    (Instr.dwWriteMemBeats2 0).wf cfgBeats2 .readMem .r0 = false := by decide

theorem test_wf_memory_read_needs_its_substep :
    Instr.drReadMem0.wf cfg0 .readMem .r1 = false ∧
    Instr.drReadMem1.wf cfg0 .readMem .r2 = false ∧ Instr.drReadMem2.wf cfg0 .readMem .r0 = false ∧
    Instr.drReadMem0.wf cfg0 .writeMem .r0 = false ∧ Instr.drReadMem1.wf cfg0 .writeMem .r1 = false ∧
    Instr.drReadMem2.wf cfg0 .idle .r2 = false := by decide

theorem test_wf_ignored_access_is_not_expected :
    (Instr.dwIgnored 0).wf cfg0 .writeMem .r0 = false ∧
    (Instr.dwIgnored 0).wf cfg0 (.caset .s3) .r0 = false ∧ (Instr.dwIgnored 0).wf cfg0 .idle .r0 = true ∧
    Instr.drIgnored.wf cfg0 .readMem .r0 = false ∧ Instr.drIgnored.wf cfg0 (.read .rddsdr .s3) .r0 = false ∧
    Instr.drIgnored.wf cfg0 .idle .r0 = true := by decide

theorem test_wf_unmapped_offset :
    (Instr.unmapped 0 true 0).wf cfg0 .idle .r0 = false ∧
    (Instr.unmapped 1 true 0).wf cfg0 .idle .r0 = false ∧ (Instr.unmapped 1 false 0).wf cfg0 .idle .r0 = false ∧
    (Instr.unmapped 256 true 0).wf cfg0 .idle .r0 = false ∧ (Instr.unmapped 0 false 0).wf cfg0 .idle .r0 = true ∧
    (Instr.unmapped 2 true 0).wf cfg0 .idle .r0 = true := by decide

/-! ### Decoding, every constructor, from words written out of 30_encoding.md -/

/-- R92, class a: the command byte in `wdata[7:0]` of a write at `OFF_CMD`. -/
theorem test_decode_flag_commands :
    ∀ r ∈ ([
      (0b0000000000010000, .slpin), (0b0000000000010001, .slpout), (0b0000000000100000, .invoff),
      (0b0000000000100001, .invon), (0b0000000000101000, .dispoff), (0b0000000000101001, .dispon),
      (0b0000000000110100, .teoff), (0b0000000000110101, .teon), (0b0000000000111000, .idmoff),
      (0b0000000000111001, .idmon)] : List (Word × Instr)),
      decode cfg0 .idle .r0 (.bus 0 true r.1) = .ok r.2 := by decide

/-- R92, class b, read sequences; in another protocol state. -/
theorem test_decode_read_commands :
    ∀ r ∈ ([
      (0b0000000000000100, .rddid), (0b0000000000001001, .rddst), (0b0000000000001010, .rddpm),
      (0b0000000000001011, .rddmadctl), (0b0000000000001100, .rddcolmod), (0b0000000000001101, .rddim),
      (0b0000000000001110, .rddsm), (0b0000000000001111, .rddsdr)] : List (Word × Instr)),
      decode cfg0 .writeMem .r0 (.bus 0 true r.1) = .ok r.2 := by decide

/-- R92, classes b and c. -/
theorem test_decode_arming_and_reset_commands :
    ∀ r ∈ ([
      (0b0000000000100110, .gamset), (0b0000000000101010, .caset), (0b0000000000101011, .raset),
      (0b0000000000101100, .ramwr), (0b0000000000101110, .ramrd), (0b0000000000110110, .madctl),
      (0b0000000000111010, .colmod), (0b0000000000000001, .swreset)] : List (Word × Instr)),
      decode cfg0 (.caset .s2) .r0 (.bus 0 true r.1) = .ok r.2 := by decide

/-- R94: bytes without a row, whatever `wdata[15:8]` holds. -/
theorem test_decode_unknown_commands :
    decode cfg0 .idle .r0 (.bus 0 true 0x0000) = .ok (.unknownCmd 0x00) ∧
    decode cfg0 .idle .r0 (.bus 0 true 0x012D) = .ok (.unknownCmd 0x2D) ∧
    decode cfg0 .idle .r0 (.bus 0 true 0x003B) = .ok (.unknownCmd 0x3B) ∧
    decode cfg0 .idle .r0 (.bus 0 true 0x29FF) = .ok (.unknownCmd 0xFF) := by decide

/-- R160: the state selects the row; the parameter byte is `wdata[7:0]`. -/
theorem test_decode_parameter_writes :
    ∀ r ∈ [
      (PState.caset .s0, Instr.dwCaset0 0x34), (PState.caset .s1, Instr.dwCaset1 0x34),
      (PState.caset .s2, Instr.dwCaset2 0x34), (PState.caset .s3, Instr.dwCaset3 0x34),
      (PState.raset .s0, Instr.dwRaset0 0x34), (PState.raset .s1, Instr.dwRaset1 0x34),
      (PState.raset .s2, Instr.dwRaset2 0x34), (PState.raset .s3, Instr.dwRaset3 0x34),
      (PState.madctl0, Instr.dwMadctl0 0x34), (PState.colmod0, Instr.dwColmod0 0x34),
      (PState.gamset0, Instr.dwGamset0 0x34)],
      decode cfg0 r.1 .r0 (.bus 1 true 0x1234) = .ok r.2 := by decide

/-- R180, R181. -/
theorem test_decode_pixel_writes :
    decode cfg0 .writeMem .r0 (.bus 1 true 0b1111100000000001) = .ok (.dwWriteMem 0xF801) ∧
    decode cfgBeats2 .writeMem .r0 (.bus 1 true 0b1111100000000001) = .ok (.dwWriteMemBeats2 0x01) := by
  decide

/-- R162, the accesses of V28. -/
theorem test_decode_ignored_accesses :
    decode cfg0 .idle .r0 (.bus 1 true 0x1234) = .ok (.dwIgnored 0x1234) ∧
    decode cfg0 .readMem .r0 (.bus 1 true 0x1234) = .ok (.dwIgnored 0x1234) ∧
    decode cfg0 (.read .rddid .s1) .r0 (.bus 1 true 0x1234) = .ok (.dwIgnored 0x1234) ∧
    decode cfg0 .idle .r0 (.bus 1 false 0) = .ok .drIgnored ∧
    decode cfg0 (.caset .s0) .r0 (.bus 1 false 0) = .ok .drIgnored ∧
    decode cfg0 .writeMem .r0 (.bus 1 false 0) = .ok .drIgnored := by decide

/-- R161, R175, R176. -/
theorem test_decode_sequence_reads_1 :
    ∀ r ∈ ([
      (PState.read .rddid .s0, Instr.drRddid0), (PState.read .rddid .s1, Instr.drRddid1),
      (PState.read .rddid .s2, Instr.drRddid2), (PState.read .rddid .s3, Instr.drRddid3),
      (PState.read .rddst .s0, Instr.drRddst0), (PState.read .rddst .s1, Instr.drRddst1),
      (PState.read .rddst .s2, Instr.drRddst2), (PState.read .rddst .s3, Instr.drRddst3)] : List (PState × Instr)),
      decode cfg0 r.1 .r2 (.bus 1 false 0) = .ok r.2 := by decide

/-- R161, R175, R176. -/
theorem test_decode_sequence_reads_2 :
    ∀ r ∈ ([
      (PState.read .rddpm .s0, Instr.drRddpm0), (PState.read .rddpm .s1, Instr.drRddpm1),
      (PState.read .rddpm .s2, Instr.drRddpm2), (PState.read .rddpm .s3, Instr.drRddpm3),
      (PState.read .rddmadctl .s0, Instr.drRddmadctl0), (PState.read .rddmadctl .s1, Instr.drRddmadctl1),
      (PState.read .rddmadctl .s2, Instr.drRddmadctl2), (PState.read .rddmadctl .s3, Instr.drRddmadctl3)] : List (PState × Instr)),
      decode cfg0 r.1 .r2 (.bus 1 false 0) = .ok r.2 := by decide

/-- R161, R175, R176. -/
theorem test_decode_sequence_reads_3 :
    ∀ r ∈ ([
      (PState.read .rddcolmod .s0, Instr.drRddcolmod0), (PState.read .rddcolmod .s1, Instr.drRddcolmod1),
      (PState.read .rddcolmod .s2, Instr.drRddcolmod2), (PState.read .rddcolmod .s3, Instr.drRddcolmod3),
      (PState.read .rddim .s0, Instr.drRddim0), (PState.read .rddim .s1, Instr.drRddim1),
      (PState.read .rddim .s2, Instr.drRddim2), (PState.read .rddim .s3, Instr.drRddim3)] : List (PState × Instr)),
      decode cfg0 r.1 .r2 (.bus 1 false 0) = .ok r.2 := by decide

/-- R161, R175, R176. -/
theorem test_decode_sequence_reads_4 :
    ∀ r ∈ ([
      (PState.read .rddsm .s0, Instr.drRddsm0), (PState.read .rddsm .s1, Instr.drRddsm1),
      (PState.read .rddsm .s2, Instr.drRddsm2), (PState.read .rddsm .s3, Instr.drRddsm3),
      (PState.read .rddsdr .s0, Instr.drRddsdr0), (PState.read .rddsdr .s1, Instr.drRddsdr1),
      (PState.read .rddsdr .s2, Instr.drRddsdr2), (PState.read .rddsdr .s3, Instr.drRddsdr3)] : List (PState × Instr)),
      decode cfg0 r.1 .r2 (.bus 1 false 0) = .ok r.2 := by decide

/-- R182 to R185. -/
theorem test_decode_memory_reads :
    ∀ r ∈ [(RdSub.r0, Instr.drReadMem0), (.r1, .drReadMem1), (.r2, .drReadMem2)],
      decode cfg0 .readMem r.1 (.bus 1 false 0) = .ok r.2 := by decide

/-- R252, V39, and the three signals. -/
theorem test_decode_top_level :
    decode cfg0 .idle .r0 (.bus 3 true 0xFFFF) = .ok (.unmapped 3 true 0xFFFF) ∧
    decode cfg0 .idle .r0 (.bus 0 false 0) = .ok (.unmapped 0 false 0) ∧
    decode cfg0 .idle .r0 (.bus 255 false 0) = .ok (.unmapped 255 false 0) ∧
    decode cfg0 .idle .r0 (.bus 256 false 0) = .error (.offsetOutsideBusSpace 256) ∧
    decode cfg0 .idle .r0 .extReset = .ok .extReset ∧ decode cfg0 .idle .r0 .powerOn = .ok .powerOn ∧
    decode cfg0 .idle .r0 .paint = .ok .paint := by decide

/-- R22, decision D23: the codes count the 46 states. -/
theorem test_state_codes : allPStates.map PState.code = List.range 46 := by decide

/-- The numbering of the table (log 9). -/
theorem test_table_words :
    decodeTableWord 8 0x29 = some .dispon ∧ decodeTableWord 8 0x2E = some .ramrd ∧
    decodeTableWord 8 0xB2 = some (.unknownCmd 0xB2) ∧ decodeTableWord 6 44 = some (.dwWriteMem 0) ∧
    decodeTableWord 6 45 = some .drReadMem0 ∧ decodeTableWord 6 37 = some (.dwCaset3 0) ∧
    decodeTableWord 16 0 = some .drIgnored ∧ decodeTableWord 32 0 = none ∧ decodeTableWord 8 256 = none := by
  decide

theorem test_fetch_word_runs :
    (match step (State.reset.withFetchWord 8 0x29) with | .next t => t.displayOn | _ => false) = true ∧
    (match step (State.reset.withFetchWord 6 37) with | .next t => decide (t.pstate = .idle) | _ => false) = true ∧
    State.reset.withFetchWord 32 0 = State.reset := by decide

/-! ### One step per instruction -/

/-- Every flag at the opposite of its reset value: V19 after its first five commands. -/
def flagsTurned : State :=
  { State.reset with
    sleepIn := false, displayOn := true, inversionOn := true, tearingOn := true, idleOn := true }

theorem test_slpin :
    (commandAt flagsTurned 0x10).map (fun t => (t.sleepIn, t.pstate)) = some (true, .idle) := by decide

theorem test_slpout :
    (commandAt State.reset 0x11).map (fun t => (t.sleepIn, t.pstate)) = some (false, .idle) := by decide

theorem test_invoff :
    (commandAt flagsTurned 0x20).map (fun t => (t.inversionOn, t.pstate)) = some (false, .idle) := by decide

theorem test_invon :
    (commandAt State.reset 0x21).map (fun t => (t.inversionOn, t.pstate)) = some (true, .idle) := by decide

theorem test_dispoff :
    (commandAt flagsTurned 0x28).map (fun t => (t.displayOn, t.pstate)) = some (false, .idle) := by decide

theorem test_dispon :
    (commandAt State.reset 0x29).map (fun t => (t.displayOn, t.pstate)) = some (true, .idle) := by decide

theorem test_teoff :
    (commandAt flagsTurned 0x34).map (fun t => (t.tearingOn, t.pstate)) = some (false, .idle) := by decide

theorem test_teon :
    (commandAt State.reset 0x35).map (fun t => (t.tearingOn, t.pstate)) = some (true, .idle) := by decide

theorem test_idmoff :
    (commandAt flagsTurned 0x38).map (fun t => (t.idleOn, t.pstate)) = some (false, .idle) := by decide

theorem test_idmon :
    (commandAt State.reset 0x39).map (fun t => (t.idleOn, t.pstate)) = some (true, .idle) := by decide

theorem test_rddid : (commandAt (inState .writeMem) 0x04).map (·.pstate) = some (.read .rddid .s0) := by decide

theorem test_rddst : (commandAt (inState .writeMem) 0x09).map (·.pstate) = some (.read .rddst .s0) := by decide

theorem test_rddpm : (commandAt (inState .writeMem) 0x0A).map (·.pstate) = some (.read .rddpm .s0) := by decide

theorem test_rddmadctl :
    (commandAt (inState .writeMem) 0x0B).map (·.pstate) = some (.read .rddmadctl .s0) := by decide

theorem test_rddcolmod :
    (commandAt (inState .writeMem) 0x0C).map (·.pstate) = some (.read .rddcolmod .s0) := by decide

theorem test_rddim : (commandAt (inState .writeMem) 0x0D).map (·.pstate) = some (.read .rddim .s0) := by decide

theorem test_rddsm : (commandAt (inState .writeMem) 0x0E).map (·.pstate) = some (.read .rddsm .s0) := by decide

theorem test_rddsdr :
    (commandAt (inState .writeMem) 0x0F).map (·.pstate) = some (.read .rddsdr .s0) := by decide

theorem test_gamset : (commandAt (inState (.read .rddid .s2)) 0x26).map (·.pstate) = some .gamset0 := by decide

theorem test_caset :
    (commandAt (inState (.read .rddid .s2)) 0x2A).map (·.pstate) = some (.caset .s0) := by decide

theorem test_raset :
    (commandAt (inState (.read .rddid .s2)) 0x2B).map (·.pstate) = some (.raset .s0) := by decide

theorem test_madctl : (commandAt (inState (.read .rddid .s2)) 0x36).map (·.pstate) = some .madctl0 := by decide

theorem test_colmod : (commandAt (inState (.read .rddid .s2)) 0x3A).map (·.pstate) = some .colmod0 := by decide

/-- A state with a window that starts at `(2, 1)` and the cursor elsewhere. -/
def windowed : State := { State.reset with colStart := 2, rowStart := 1, cursorCol := 7, cursorRow := 9, rdSub := .r2 }

/-- Every register away from its reset value, the orientation `MV = 1` (V22, V23). -/
def disturbed : State :=
  { flagsTurned with
    pstate := .writeMem, rdSub := .r1, wrPhase := true, shift16 := 0x1234, colStart := 1, colEnd := 2, rowStart := 1
    rowEnd := 1, cursorCol := 1, cursorRow := 1, gamma := 8, mv := true, my := true, interfaceFormat := 5
    controlFormat := 5, dirty := true, fb := [(0, 0x00F80000)] }

/-- R144, V26. -/
theorem test_ramwr :
    (commandAt windowed 0x2C).map (fun t => (t.pstate, t.cursorCol, t.cursorRow)) = some (.writeMem, 2, 1) := by
  decide

/-- R145, V24. -/
theorem test_ramrd :
    (commandAt windowed 0x2E).map (fun t => (t.pstate, t.cursorCol, t.cursorRow, t.rdSub)) =
      some (.readMem, 2, 1, .r0) := by decide

/-- R275, V24. -/
theorem test_ramrd_fatal :
    (commandAt { windowed with controlFormat := 5 } 0x2E).map
      (fun t => (t.fatal, t.pstate, t.cursorCol, t.rdSub)) = some (true, .idle, 7, .r2) := by decide

/-- V22, V23, V41: the window follows `MV = 1`. -/
theorem test_swreset :
    (stepped disturbed (.bus 0 true 0x01)).map (fun t => (t.pstate, t.colEnd, t.rowEnd, t.gamma, t.controlFormat)) =
      some (.idle, 2, 3, 0, 6) := by decide

/-- V22, V41: what a reset keeps. -/
theorem test_swreset_keeps :
    (stepped disturbed (.bus 0 true 0x01)).map (fun t => (t.fb, t.my, t.mv, t.dirty)) =
      some ([(0, 0x00F80000)], true, true, true) := by decide

/-- V22, V23, V41: the window follows `MV = 1`. -/
theorem test_extReset :
    (stepped disturbed .extReset).map (fun t => (t.pstate, t.colEnd, t.rowEnd, t.gamma, t.controlFormat)) =
      some (.idle, 2, 3, 0, 6) := by decide

/-- V22, V41: what a reset keeps. -/
theorem test_extReset_keeps :
    (stepped disturbed .extReset).map (fun t => (t.fb, t.my, t.mv, t.dirty)) =
      some ([(0, 0x00F80000)], true, true, true) := by decide

/-- R148, V21. -/
theorem test_unknownCmd :
    (commandAt (inState .writeMem) 0xB2).map (fun t => (t.pstate, t.result)) =
      some (.writeMem, ⟨0, .unimplCmd 0xB2, false, none⟩) := by decide

theorem test_dwCaset0 :
    (dataWriteAt { inState (.caset .s0) with shift16 := 0x9912 } 0xFF34).map
      (fun t => (t.shift16, t.pstate, t.colEnd)) = some (0x1234, .caset .s1, 3) := by decide

theorem test_dwRaset0 :
    (dataWriteAt { inState (.raset .s0) with shift16 := 0x9912 } 0xFF34).map
      (fun t => (t.shift16, t.pstate, t.rowEnd)) = some (0x1234, .raset .s1, 2) := by decide

theorem test_dwCaset1 :
    (dataWriteAt { inState (.caset .s1) with shift16 := 0x9912 } 0xFF34).map
      (fun t => (t.colStart, t.shift16, t.pstate)) = some (0x1234, 0x1234, .caset .s2) := by decide

theorem test_dwRaset1 :
    (dataWriteAt { inState (.raset .s1) with shift16 := 0x9912 } 0xFF34).map
      (fun t => (t.rowStart, t.shift16, t.pstate)) = some (0x1234, 0x1234, .raset .s2) := by decide

theorem test_dwCaset2 :
    (dataWriteAt { inState (.caset .s2) with shift16 := 0x9912 } 0xFF34).map
      (fun t => (t.shift16, t.pstate, t.colEnd)) = some (0x1234, .caset .s3, 3) := by decide

theorem test_dwRaset2 :
    (dataWriteAt { inState (.raset .s2) with shift16 := 0x9912 } 0xFF34).map
      (fun t => (t.shift16, t.pstate, t.rowEnd)) = some (0x1234, .raset .s3, 2) := by decide

theorem test_dwCaset3 :
    (dataWriteAt { inState (.caset .s3) with shift16 := 0x9912 } 0xFF34).map
      (fun t => (t.colEnd, t.shift16, t.pstate)) = some (0x1234, 0x1234, .idle) := by decide

theorem test_dwRaset3 :
    (dataWriteAt { inState (.raset .s3) with shift16 := 0x9912 } 0xFF34).map
      (fun t => (t.rowEnd, t.shift16, t.pstate)) = some (0x1234, 0x1234, .idle) := by decide

/-- R98, V41: `A0` is `MY` and `MV`. -/
theorem test_dwMadctl0 :
    (dataWriteAt (inState .madctl0) 0xFFA0).map (fun t => (t.my, t.mx, t.mv, t.pstate)) = some (true, false, true, .idle) := by
  decide

/-- R99. -/
theorem test_dwColmod0 :
    (dataWriteAt (inState .colmod0) 0xFF56).map (fun t => (t.interfaceFormat, t.controlFormat, t.pstate)) =
      some (0b101, 0b110, .idle) := by decide

/-- R177, V22. -/
theorem test_dwGamset0 :
    (dataWriteAt (inState .gamset0) 0xFF08).map (fun t => (t.gamma, t.pstate)) = some (0x08, .idle) := by decide

/-- V10: `MY = 1` puts the first pixel in the last row. -/
theorem test_dwWriteMem :
    (dataWriteAt { inState .writeMem with my := true } 0xF800).map
      (fun t => (t.fb, t.cursorCol, t.dirty, t.result.invalidate)) = some ([(8, 0x00F80000)], 1, true, true) := by
  decide

/-- V16: a position past the panel edge is dropped, the cursor goes on. -/
theorem test_dwWriteMem_invalid :
    (dataWriteAt { inState .writeMem with cursorCol := 4, colEnd := 5 } 0xFFFF).map
      (fun t => (t.fb, t.cursorCol, t.dirty, t.result)) = some ([], 5, false, .quiet) := by decide

/-- R181, V38, the first half. -/
theorem test_dwWriteMemBeats2_first :
    (dataWriteAt { inState .writeMem with cfg := cfgBeats2 } 0x00F8).map
      (fun t => (t.fb, t.wrPhase, t.shift16, t.cursorCol)) = some ([], true, 0x00F8, 0) := by decide

/-- R181, V38, the second half. -/
theorem test_dwWriteMemBeats2_second :
    (dataWriteAt { inState .writeMem with cfg := cfgBeats2, wrPhase := true, shift16 := 0x0012 } 0x0034).map
      (fun t => (t.fb, t.wrPhase, t.cursorCol)) = some ([(0, 0x001044A0)], false, 1) := by decide

/-- V28 (c). -/
theorem test_dwIgnored :
    (dataWriteAt (inState (.read .rddid .s1)) 0x1234).map (fun t => (t.pstate, t.result.diag)) =
      some (.read .rddid .s1, .dataIgnored 2) := by decide

/-- V29. -/
theorem test_drRddid0 :
    (dataReadAt (inState (.read .rddid .s0))).map (fun t => (t.result.rdata, t.pstate)) = some (0x0000, .read .rddid .s1) := by
  decide

theorem test_drRddid1 :
    (dataReadAt (inState (.read .rddid .s1))).map (fun t => (t.result.rdata, t.pstate)) = some (0x0085, .read .rddid .s2) := by
  decide

theorem test_drRddid2 :
    (dataReadAt (inState (.read .rddid .s2))).map (fun t => (t.result.rdata, t.pstate)) = some (0x0085, .read .rddid .s3) := by
  decide

theorem test_drRddid3 :
    (dataReadAt (inState (.read .rddid .s3))).map (fun t => (t.result.rdata, t.pstate)) = some (0x0052, .idle) := by
  decide

/-- V29: the identifier `0x123456` reads `00`, `12`, `34`, `56`. -/
theorem test_drRddid_order :
    (dataReadAt { inState (.read .rddid .s2) with cfg := { cfg0 with displayId := 0x123456 } }).map
      (·.result.rdata) = some 0x0034 := by decide

/-- V31: the four accesses move the sequence to its end; the bytes are open. -/
theorem test_dr_rddst :
    ∀ r ∈ [(SubState.s0, PState.read .rddst .s1), (.s1, .read .rddst .s2), (.s2, .read .rddst .s3), (.s3, .idle)],
      (dataReadAt (inState (.read .rddst r.1))).map (fun t => (t.pstate, t.result.diag)) = some (r.2, .none) := by
  decide

theorem test_dr_rddpm :
    ∀ r ∈ [(SubState.s0, PState.read .rddpm .s1), (.s1, .read .rddpm .s2), (.s2, .read .rddpm .s3), (.s3, .idle)],
      (dataReadAt (inState (.read .rddpm r.1))).map (fun t => (t.pstate, t.result.diag)) = some (r.2, .none) := by
  decide

theorem test_dr_rddmadctl :
    ∀ r ∈ [(SubState.s0, PState.read .rddmadctl .s1), (.s1, .read .rddmadctl .s2), (.s2, .read .rddmadctl .s3), (.s3, .idle)],
      (dataReadAt (inState (.read .rddmadctl r.1))).map (fun t => (t.pstate, t.result.diag)) = some (r.2, .none) := by
  decide

theorem test_dr_rddcolmod :
    ∀ r ∈ [(SubState.s0, PState.read .rddcolmod .s1), (.s1, .read .rddcolmod .s2), (.s2, .read .rddcolmod .s3), (.s3, .idle)],
      (dataReadAt (inState (.read .rddcolmod r.1))).map (fun t => (t.pstate, t.result.diag)) = some (r.2, .none) := by
  decide

theorem test_dr_rddim :
    ∀ r ∈ [(SubState.s0, PState.read .rddim .s1), (.s1, .read .rddim .s2), (.s2, .read .rddim .s3), (.s3, .idle)],
      (dataReadAt (inState (.read .rddim r.1))).map (fun t => (t.pstate, t.result.diag)) = some (r.2, .none) := by
  decide

theorem test_dr_rddsm :
    ∀ r ∈ [(SubState.s0, PState.read .rddsm .s1), (.s1, .read .rddsm .s2), (.s2, .read .rddsm .s3), (.s3, .idle)],
      (dataReadAt (inState (.read .rddsm r.1))).map (fun t => (t.pstate, t.result.diag)) = some (r.2, .none) := by
  decide

theorem test_dr_rddsdr :
    ∀ r ∈ [(SubState.s0, PState.read .rddsdr .s1), (.s1, .read .rddsdr .s2), (.s2, .read .rddsdr .s3), (.s3, .idle)],
      (dataReadAt (inState (.read .rddsdr r.1))).map (fun t => (t.pstate, t.result.diag)) = some (r.2, .none) := by
  decide

/-- The two pixels of V12 in the first two cells, a memory read under way. -/
def twoPixels (k : RdSub) (col : Word) : State :=
  { inState .readMem with fb := [(0, 0x00F80000), (1, 0x001044A0)], rdSub := k, cursorCol := col, colEnd := 1, rowEnd := 0 }

/-- V12, P2. -/
theorem test_drReadMem0 :
    (dataReadAt (twoPixels .r0 0)).map (fun t => (t.result.rdata, t.rdSub, t.cursorCol, t.pstate)) =
      some (0xF800, .r1, 0, .readMem) := by decide

theorem test_drReadMem1 :
    (dataReadAt (twoPixels .r1 0)).map (fun t => (t.result.rdata, t.rdSub, t.cursorCol, t.pstate)) =
      some (0x0010, .r2, 1, .readMem) := by decide

theorem test_drReadMem2 :
    (dataReadAt (twoPixels .r2 1)).map (fun t => (t.result.rdata, t.rdSub, t.cursorCol, t.pstate)) =
      some (0x44A0, .r0, 0, .readMem) := by decide

/-- V33, V37: an invalid position reads 0 and is not reported. -/
theorem test_drReadMem0_invalid :
    (dataReadAt (twoPixels .r0 4)).map (fun t => (t.result.rdata, t.result.diag)) = some (0, .none) := by decide

/-- V28 (b). -/
theorem test_drIgnored :
    (dataReadAt (inState (.caset .s0))).map (fun t => (t.pstate, t.result)) =
      some (.caset .s0, ⟨0, .dataIgnored 34, false, none⟩) := by decide

/-- V39. -/
theorem test_unmapped :
    (stepped (inState .writeMem) (.bus 3 true 0xFFFF)).map (fun t => (t.pstate, t.result)) =
      some (.writeMem, ⟨0, .unimplOffset 3, false, none⟩) := by decide

/-- V43: the state is `S0` again. -/
theorem test_powerOn :
    stepped { disturbed with fatal := true } .powerOn =
      some { State.reset with powerOns := 1 } := by decide

/-- V40 on a panel of one cell. -/
theorem test_paint :
    (stepped { State.reset with cfg := { cfg0 with W := 1, H := 1 }, fb := [(0, 0x00F80000)], dirty := true } .paint).map
      (fun t => (t.result.surface, t.dirty, t.fb)) = some (some ⟨1, 1, [0xF80000]⟩, false, [(0, 0x00F80000)]) := by
  decide

/-- P4: with `ROTATE` the surface is `H` wide and `W` high. -/
theorem test_paint_transposed :
    (stepped { State.reset with
        cfg := { cfg0 with W := 2, H := 1, rotate := true }, fb := [(0, 0x00080000), (1, 0x00100000)] } .paint).map
      (fun t => t.result.surface) = some (some ⟨1, 2, [0x080000, 0x100000]⟩) := by decide

/-- V42. -/
theorem test_refused_while_fatal :
    ∀ op ∈ [Operation.bus 0 true 0x01, .bus 1 true 0x0001, .bus 1 false 0, .extReset, .paint],
      stepped { disturbed with fatal := true } op = some { disturbed with fatal := true } := by decide

/-! ### The pure functions on the vectors of the spec -/

/-- V1 to V8. -/
theorem test_encode565 :
    encode565 0xF800 = 0x00F80000 ∧
    encode565 0x07E0 = 0x0000FC00 ∧
    encode565 0x001F = 0x000000F8 ∧
    encode565 0xFFFF = 0x00F8FCF8 ∧
    encode565 0x0000 = 0x00000000 ∧
    encode565 0x1234 = 0x001044A0 ∧
    encode565 0x8410 = 0x00808080 ∧
    encode565 0x0821 = 0x00080408 := by decide

/-- V1 to V8, back. -/
theorem test_decode565 :
    decode565 0x00F80000 = 0xF800 ∧
    decode565 0x0000FC00 = 0x07E0 ∧
    decode565 0x000000F8 = 0x001F ∧
    decode565 0x00F8FCF8 = 0xFFFF ∧
    decode565 0x00000000 = 0x0000 ∧
    decode565 0x001044A0 = 0x1234 ∧
    decode565 0x00808080 = 0x8410 ∧
    decode565 0x00080408 = 0x0821 := by decide

/-- R222: cells with a listed bit set. -/
theorem test_isEncoded_refuses :
    isEncoded 0x00FFFFFF = false ∧
    isEncoded 0x01000000 = false ∧
    isEncoded 0x00000001 = false ∧
    isEncoded 0x00000100 = false ∧
    isEncoded 0x00010000 = false := by decide

/-- R216 (V9), `MV MX MY` = 0 0 0. -/
theorem test_transform_0 :
    ∀ r ∈ ([
      ((1, 2), some (1, 2)), ((3, 0), some (3, 0)), ((0, 0), some (0, 0)), ((2, 3), none)] :
        List ((Word × Word) × Option (Nat × Nat))),
      transform 4 3 false false false r.1.1 r.1.2 = r.2 := by decide

/-- R216 (V9), `MV MX MY` = 0 0 1. -/
theorem test_transform_1 :
    ∀ r ∈ ([
      ((1, 2), some (1, 0)), ((3, 0), some (3, 2)), ((0, 0), some (0, 2)), ((2, 3), none)] :
        List ((Word × Word) × Option (Nat × Nat))),
      transform 4 3 true false false r.1.1 r.1.2 = r.2 := by decide

/-- R216 (V9), `MV MX MY` = 0 1 0. -/
theorem test_transform_2 :
    ∀ r ∈ ([
      ((1, 2), some (2, 2)), ((3, 0), some (0, 0)), ((0, 0), some (3, 0)), ((2, 3), none)] :
        List ((Word × Word) × Option (Nat × Nat))),
      transform 4 3 false true false r.1.1 r.1.2 = r.2 := by decide

/-- R216 (V9), `MV MX MY` = 0 1 1. -/
theorem test_transform_3 :
    ∀ r ∈ ([
      ((1, 2), some (2, 0)), ((3, 0), some (0, 2)), ((0, 0), some (3, 2)), ((2, 3), none)] :
        List ((Word × Word) × Option (Nat × Nat))),
      transform 4 3 true true false r.1.1 r.1.2 = r.2 := by decide

/-- R216 (V9), `MV MX MY` = 1 0 0. -/
theorem test_transform_4 :
    ∀ r ∈ ([
      ((1, 2), some (0, 2)), ((3, 0), some (2, 0)), ((0, 0), none), ((2, 3), none)] :
        List ((Word × Word) × Option (Nat × Nat))),
      transform 4 3 false false true r.1.1 r.1.2 = r.2 := by decide

/-- R216 (V9), `MV MX MY` = 1 0 1. -/
theorem test_transform_5 :
    ∀ r ∈ ([
      ((1, 2), some (2, 2)), ((3, 0), some (0, 0)), ((0, 0), none), ((2, 3), some (3, 1))] :
        List ((Word × Word) × Option (Nat × Nat))),
      transform 4 3 true false true r.1.1 r.1.2 = r.2 := by decide

/-- R216 (V9), `MV MX MY` = 1 1 0. -/
theorem test_transform_6 :
    ∀ r ∈ ([
      ((1, 2), some (0, 1)), ((3, 0), none), ((0, 0), some (2, 0)), ((2, 3), none)] :
        List ((Word × Word) × Option (Nat × Nat))),
      transform 4 3 false true true r.1.1 r.1.2 = r.2 := by decide

/-- R216 (V9), `MV MX MY` = 1 1 1. -/
theorem test_transform_7 :
    ∀ r ∈ ([
      ((1, 2), some (2, 1)), ((3, 0), none), ((0, 0), some (0, 0)), ((2, 3), some (3, 2))] :
        List ((Word × Word) × Option (Nat × Nat))),
      transform 4 3 true true true r.1.1 r.1.2 = r.2 := by decide

/-- R201, V17: the comparison is on exact integers. -/
theorem test_advance :
    (windowed.advanceCursor.cursorCol, windowed.advanceCursor.cursorRow) = (2, 1) ∧
    (State.advanceCursor { State.reset with
        colStart := 0xFFFE, colEnd := 0xFFFF, rowEnd := 0, cursorCol := 0xFFFF }).cursorCol = 0xFFFE ∧
    (State.advanceCursor { State.reset with cursorCol := 3, cursorRow := 1 }).cursorRow = 2 := by decide

/-- R106: `CASET 0102,0304`. -/
theorem test_window_macro :
    casetOps cfg0 0x0102 0x0304 =
      [.bus 0 true 0x2A, .bus 1 true 0x01, .bus 1 true 0x02, .bus 1 true 0x03, .bus 1 true 0x04] := by
  decide

/-- R257. -/
theorem test_coinciding_requests :
    Requests.ordered ⟨true, true, some (.bus 0 true 0x29), true⟩ =
      [.powerOn, .extReset, .bus 0 true 0x29, .paint] := by decide

/-! ### Witnesses: the hypotheses of each obligation that has any are met, at the edges of its clauses -/

/-- The widest panel, rows exchanged. -/
def widest : State := { State.reset with cfg := { cfg0 with W := 65536, H := 1 }, mv := true }

/-- The one-cell panel. -/
def oneCell : State := { State.reset with cfg := { cfg0 with W := 1, H := 1 } }

/-- A fatal state that the block can reach (P5). -/
def faulted : State := { State.reset with fatal := true, controlFormat := 5, interfaceFormat := 5 }

/-- The invariant at reset, for the statements that assume it. -/
theorem test_inv_reset : Inv State.reset :=
  ⟨by decide, by decide, by simp [State.reset, State.afterPowerOn], by simp [State.reset, State.afterPowerOn],
    by decide, by decide⟩

/-- A reachable state in `WRITE_MEM` of a two-beat block, with a stored cell. -/
theorem test_inv_writing : Inv { inState .writeMem with cfg := cfgBeats2, wrPhase := true, fb := [(11, 0x00F8FCF8)] } := by
  refine ⟨by decide, by decide, ?_, ?_, by decide, by decide⟩ <;>
    · intro i c h
      obtain ⟨rfl, rfl⟩ : i = 11 ∧ c = 0x00F8FCF8 := by simpa using h
      decide

theorem test_witness_ResetReinitialisesRegisters :
    State.reset.fatal = false ∧ disturbed.fatal = false ∧
    Instr.swreset ∈ [Instr.swreset, .extReset] ∧ Instr.extReset ∈ [Instr.swreset, .extReset] := by decide

/-- At both ends of the panel sizes. -/
theorem test_witness_DefaultWindowMatchesRowExchange :
    widest.cfg.wf = true ∧ widest.fatal = false ∧ widest.mv = true ∧ oneCell.cfg.wf = true ∧ oneCell.mv = false ∧ oneCell.fatal = false := by
  decide

theorem test_witness_DisplayOnSetsOnlyItsFlag :
    cfg0.wf = true ∧ (0x29 : Word).toNat % 256 = 0x29 ∧ (0xFF29 : Word).toNat % 256 = 0x29 ∧ State.reset.fatal = false := by
  decide

theorem test_witness_FlagCommandsWriteOneFlag :
    State.reset.fatal = false ∧ flagsTurned.fatal = false := by decide

theorem test_witness_ArmingCommandsOverwriteTheState :
    disturbed.fatal = false ∧ State.reset.fatal = false ∧ State.reset.controlFormat = 0b110#3 := by decide

theorem test_witness_MemoryWriteCommandArms :
    windowed.fatal = false ∧ { windowed with controlFormat := 5 }.fatal = false := by decide

/-- Both clauses, at the formats beside the 18-bit one. -/
theorem test_witness_MemoryReadCommandArmsOrFaults :
    windowed.fatal = false ∧ windowed.controlFormat = 0b110#3 ∧
    { windowed with controlFormat := 5 }.fatal = false ∧ { windowed with controlFormat := 5 }.controlFormat ≠ 0b110#3 ∧
    { windowed with controlFormat := 7 }.controlFormat ≠ 0b110#3 := by decide

theorem test_witness_UnknownCommandIsReportedOnly :
    cfg0.wf = true ∧ BitVec.ofNat 8 (0x0000 : Word).toNat ∉ knownOpcodes ∧
    BitVec.ofNat 8 (0x29FF : Word).toNat ∉ knownOpcodes ∧ BitVec.ofNat 8 (0x002D : Word).toNat ∉ knownOpcodes ∧
    State.reset.fatal = false := by decide

theorem test_witness_WindowBytesLoadTheWindow :
    cfg0.wf = true ∧ cfgBeats2.wf = true ∧ State.reset.fatal = false ∧
    { State.reset with shift16 := 0xFFFF }.fatal = false ∧
    (0xFF34 : Word) = BitVec.ofNat 16 ((0xFFFF : Word).toNat * 256 + (0x34 : Byte).toNat) := by decide

theorem test_witness_WindowSequenceAssemblesHighByteFirst :
    State.reset.fatal = false ∧ disturbed.fatal = false := by decide

theorem test_witness_ControlBytesLoadTheirRegisters :
    State.reset.fatal = false ∧ disturbed.fatal = false := by decide

/-- A parameter state, and `WRITE_MEM` with two beats. -/
theorem test_witness_UpperByteOfParametersIgnored :
    cfg0.wf = true ∧ (0x1234 : Word).toNat % 256 = (0xFF34 : Word).toNat % 256 ∧
    ignoresWrite (.caset .s0) = false ∧ PState.caset .s0 ≠ .writeMem ∧
    cfgBeats2.wf = true ∧ ignoresWrite .writeMem = false ∧ cfgBeats2.pixelBeats = .two := by decide

/-- The corners of the panel, and the positions just past them. -/
theorem test_witness_PixelWriteStoresOrDrops :
    State.reset.fatal = false ∧ State.reset.cursorPosition = some (0, 0) ∧
    { State.reset with cursorCol := 3, cursorRow := 2 }.cursorPosition = some (3, 2) ∧
    { State.reset with cursorCol := 4 }.cursorPosition = none ∧
    { State.reset with cursorRow := 3, my := true }.cursorPosition = none ∧
    (3 < State.reset.cfg.W ∧ ((3, 2) : Nat × Nat) ≠ (0, 0)) := by decide

theorem test_witness_HalfPixelWritesMakeAPixel :
    State.reset.fatal = false ∧ State.reset.wrPhase = false ∧
    { State.reset with wrPhase := true, shift16 := 0x00F8 }.wrPhase = true ∧
    (0xF800 : Word) = BitVec.ofNat 16 ((0x00F8 : Word).toNat * 256 + (0x00 : Byte).toNat) := by decide

theorem test_witness_DisplayIdReadsReturnItsBytes :
    cfg0.wf = true ∧ State.reset.fatal = false ∧ State.reset.pstate = .idle ∧ (inState (.read .rddid .s3)).fatal = false := by
  decide

theorem test_witness_OpenReadsAdvanceWhateverTheByte :
    State.reset.fatal = false ∧ (inState (.read .rddsdr .s3)).fatal = false := by decide

theorem test_witness_MemoryReadSubSteps :
    (twoPixels .r0 0).fatal = false ∧ (twoPixels .r0 0).controlFormat = 0b110#3 := by decide

theorem test_witness_MemoryReadInOtherFormatIsFatal :
    { twoPixels .r0 0 with controlFormat := 5 }.fatal = false ∧
    { twoPixels .r0 0 with controlFormat := 5 }.controlFormat ≠ 0b110#3 := by decide

theorem test_witness_ReadGroupDeliversTwoPixels :
    (twoPixels .r0 0).fatal = false ∧ (twoPixels .r0 0).controlFormat = 0b110#3 ∧
    (twoPixels .r0 4).controlFormat = 0b110#3 := by decide

theorem test_witness_WrittenPixelReadsBack :
    State.reset.fatal = false ∧ State.reset.controlFormat = 0b110#3 ∧
    transform 4 3 false false false 0 0 = some (0, 0) ∧ transform 4 3 false false false 3 2 = some (3, 2) ∧
    transform 4 3 true true true 2 3 = some (3, 2) := by decide

theorem test_witness_UnexpectedDataAccessIsReportedOnly :
    cfg0.wf = true ∧ ignoresWrite .idle = true ∧ ignoresRead .idle = true ∧ ignoresWrite .readMem = true ∧
    ignoresRead .writeMem = true ∧ ignoresWrite (.read .rddsdr .s3) = true ∧ ignoresRead .colmod0 = true ∧
    State.reset.fatal = false := by decide

/-- Each clause, at the end of the window and at the top of the range (V17), and an instruction of each kind. -/
theorem test_witness_CursorMovesAsStated :
    (State.reset.cursorCol.toNat + 1 ≤ State.reset.colEnd.toNat) ∧
    (let s : State := { State.reset with cursorCol := 3, cursorRow := 1 }
     s.colEnd.toNat < s.cursorCol.toNat + 1 ∧ s.cursorRow.toNat + 1 ≤ s.rowEnd.toNat) ∧
    (let s : State := { State.reset with cursorCol := 0xFFFF, colEnd := 0xFFFF, cursorRow := 0xFFFF, rowEnd := 0xFFFF }
     s.colEnd.toNat < s.cursorCol.toNat + 1 ∧ s.rowEnd.toNat < s.cursorRow.toNat + 1) ∧
    State.reset.fatal = false ∧ State.reset.controlFormat = 0b110#3 ∧
    (dataWriteAt (inState .writeMem) 0xF800).isSome = true ∧ (dataReadAt (twoPixels .r1 0)).isSome = true ∧
    (commandAt windowed 0x2C).isSome = true ∧ (commandAt windowed 0x01).isSome = true := by decide

theorem test_witness_CursorMovesAsStated_execNext :
    ((match exec (.dwWriteMem 0xF800) State.reset with | .next _ => true | _ => false) = true) ∧
    ((match exec .drReadMem1 State.reset with | .next _ => true | _ => false) = true) ∧
    ((match exec .ramwr State.reset with | .next _ => true | _ => false) = true) ∧
    ((match exec .extReset State.reset with | .next _ => true | _ => false) = true) ∧
    ((match exec .caset State.reset with | .next _ => true | _ => false) = true) := by decide

theorem test_witness_WalkIsRasterOrderForEver :
    State.reset.colStart.toNat ≤ State.reset.colEnd.toNat ∧ State.reset.rowStart.toNat ≤ State.reset.rowEnd.toNat ∧
    oneCell.colStart.toNat ≤ oneCell.colEnd.toNat ∧
    (let s : State := { State.reset with colStart := 0xFFFE, colEnd := 0xFFFF }
     s.colStart.toNat ≤ s.colEnd.toNat ∧ s.rowStart.toNat ≤ s.rowEnd.toNat) := by decide

/-- V15, inverted rows at the top of the range, and both inverted. -/
theorem test_witness_InvertedWindowWalksOneColumn :
    (let s : State := { State.reset with colStart := 2, colEnd := 1 }
     s.colEnd.toNat < s.colStart.toNat ∧ s.rowStart.toNat ≤ s.rowEnd.toNat) ∧
    (let s : State := { State.reset with rowStart := 0xFFFF, rowEnd := 0xFFFE, colEnd := 0xFFFF }
     s.colStart.toNat ≤ s.colEnd.toNat ∧ s.rowEnd.toNat < s.rowStart.toNat) ∧
    (let s : State := { State.reset with colStart := 0xFFFF, colEnd := 0, rowStart := 1, rowEnd := 0 }
     s.colEnd.toNat < s.colStart.toNat ∧ s.rowEnd.toNat < s.rowStart.toNat) := by decide

theorem test_witness_TransformHasItsInverse :
    transform 4 3 true true true 2 3 = some (3, 2) ∧
    transform 65536 65536 false true false 0xFFFF 0xFFFF = some (0, 65535) := by decide

theorem test_witness_InvalidPositionIsSkipped :
    { State.reset with cursorCol := 4, wrPhase := true }.cursorPosition = none ∧
    { State.reset with cursorCol := 4, wrPhase := true }.fatal = false ∧
    { State.reset with cursorCol := 4, wrPhase := true }.controlFormat = 0b110#3 ∧
    { State.reset with cursorCol := 3 }.cursorPosition ≠ none ∧
    { State.reset with cursorCol := 3, colEnd := 4 }.advanceCursor.cursorPosition = none := by decide

theorem test_witness_CellAtCursorOrZero :
    State.reset.cursorPosition = some (0, 0) ∧
    { State.reset with mv := true, cursorCol := 1 }.cursorPosition = some (2, 2) ∧
    { State.reset with cursorRow := 3 }.cursorPosition = none := by decide

theorem test_witness_UnmappedAccessIsReportedOnly :
    (2 < 2 ^ cfg0.addrW ∧ 2 ≠ cfg0.offCmd ∧ 2 ≠ cfg0.offData) ∧
    (255 < 2 ^ cfg0.addrW ∧ 255 ≠ cfg0.offCmd ∧ 255 ≠ cfg0.offData) ∧ State.reset.fatal = false := by decide

theorem test_witness_ReadOfCommandRegisterIsUnmapped :
    cfg0.wf = true ∧ Config.wf { cfg0 with offData := 255, offCmd := 254 } = true := by decide

theorem test_witness_PaintCopiesTheWholeFramebuffer :
    State.reset.fatal = false ∧ State.reset.cfg.rotate = false ∧
    { State.reset with cfg := { cfg0 with rotate := true } }.cfg.rotate = true := by decide

theorem test_witness_EverythingIsRefusedWhileFatal :
    Instr.swreset ≠ .powerOn ∧ Instr.extReset ≠ .powerOn ∧ faulted.fatal = true := by decide

theorem test_witness_StepRunsTheDecodedInstruction :
    decode State.reset.cfg State.reset.pstate State.reset.rdSub (.bus 0 true 0x29) = .ok .dispon ∧
    { State.reset with pending := [.bus 0 true 0x29, .paint] }.pending = .bus 0 true 0x29 :: [.paint] := by
  decide

theorem test_witness_StepWaitsOrStopsByName :
    State.reset.pending = [] ∧ 2 ^ State.reset.cfg.addrW ≤ 256 ∧
    { State.reset with pending := [.bus 256 false 0] }.pending = .bus 256 false 0 :: [] := by decide

theorem test_witness_EveryOperationIsEnabled :
    (Operation.bus 255 true 0).inBusSpace State.reset.cfg = true ∧ Operation.powerOn.inBusSpace faulted.cfg = true := by
  decide

theorem test_witness_ProtocolStateMovesAsStated :
    State.reset.cfg.wf = true ∧ State.reset.fatal = false ∧
    (decode cfg0 .idle .r0 (.bus 0 true 0x2E) = .ok .ramrd ∧ armTarget .ramrd = some .readMem ∧
      (commandAt State.reset 0x2E).isSome = true) ∧
    (decode cfg0 (.caset .s3) .r0 (.bus 1 true 0) = .ok (.dwCaset3 0) ∧ accessConsumed (.caset .s3) true = true ∧
      stateAfterAccess (.caset .s3) = .idle ∧ (dataWriteAt (inState (.caset .s3)) 0).isSome = true) ∧
    (accessConsumed .readMem false = true ∧ (dataReadAt (inState .readMem)).isSome = true) ∧
    (decode cfg0 .idle .r0 .extReset = .ok .extReset ∧ (stepped State.reset .extReset).isSome = true) := by
  decide

theorem test_witness_ConfigurationNeverChanges :
    (stepped disturbed .extReset).isSome = true ∧ (stepped faulted .powerOn).isSome = true := by decide

theorem test_witness_FramebufferHasOneWriter :
    (inState .writeMem).cfg.wf = true ∧
    (dataWriteAt (inState .writeMem) 0xF800).map (fun t => decide (t.fb = (inState .writeMem).fb)) = some false ∧
    (stepped disturbed .powerOn).map (fun t => decide (t.fb = disturbed.fb)) = some false := by decide

theorem test_witness_DiagnosticsChangeNothing :
    (commandAt State.reset 0xB2).map (fun t => decide (t.result.diag = .none)) = some false ∧
    (stepped State.reset (.bus 255 true 0)).map (fun t => decide (t.result.diag = .none)) = some false ∧
    (dataReadAt State.reset).map (fun t => decide (t.result.diag = .none)) = some false := by decide

theorem test_witness_FatalIsRaisedOnlyByMemoryRead :
    Inv { State.reset with controlFormat := 5 } ∧ { State.reset with controlFormat := 5 }.fatal = false ∧
    (commandAt { State.reset with controlFormat := 5 } 0x2E).map (·.fatal) = some true :=
  ⟨⟨by decide, by decide, by simp [State.reset, State.afterPowerOn], by simp [State.reset, State.afterPowerOn],
    by decide, by decide⟩, by decide, by decide⟩

theorem test_witness_OnlyPowerOnClearsFatal :
    faulted.fatal = true ∧ (stepped faulted .powerOn).map (·.fatal) = some false := by decide

theorem test_witness_WrittenOutWordsDecode : cfg0.wf = true ∧ cfgBeats2.wf = true := by decide

theorem test_witness_DecodeOfEncodeIsTheInstruction :
    cfg0.wf = true ∧ (Instr.dwCaset2 0xFF).wf cfg0 (.caset .s2) .r0 = true ∧
    (Instr.dwWriteMemBeats2 0x80).wf cfgBeats2 .writeMem .r0 = true ∧ Instr.drReadMem2.wf cfg0 .readMem .r2 = true ∧
    (Instr.unknownCmd 0xFF).wf cfg0 .idle .r0 = true ∧ (Instr.unmapped 255 true 0xFFFF).wf cfg0 .idle .r0 = true := by
  decide

theorem test_witness_DecodedInstructionIsWellFormed :
    decode cfg0 .readMem .r2 (.bus 1 false 0) = .ok .drReadMem2 ∧
    decode cfg0 .idle .r0 (.bus 255 true 7) = .ok (.unmapped 255 true 7) := by decide

theorem test_witness_InvariantHoldsAtReset :
    cfg0.wf = true ∧ widest.cfg.wf = true ∧ cfgBeats2.wf = true := by decide

theorem test_witness_EveryStepKeepsTheInvariant :
    Inv { inState .writeMem with cfg := cfgBeats2, wrPhase := true, fb := [(11, 0x00F8FCF8)] } ∧
    (dataWriteAt { inState .writeMem with cfg := cfgBeats2, wrPhase := true, fb := [(11, 0x00F8FCF8)] } 0xFF).isSome = true :=
  ⟨test_inv_writing, by decide⟩

/-- The last position of a proper window, and the one column of an inverted one. -/
theorem test_witness_BulkCursorStaysInTheWindow :
    bulkCursorInWindow { inState .writeMem with cursorCol := 3, cursorRow := 2 } ∧
    bulkCursorInWindow { inState .readMem with colStart := 2, colEnd := 1, cursorCol := 2 } ∧
    (dataWriteAt { inState .writeMem with cursorCol := 3, cursorRow := 2 } 0).isSome = true := by
  refine ⟨?_, ?_, by decide⟩ <;> intro _ <;> unfold inWindow <;> decide

theorem test_witness_UnreadRegistersDecideNothing :
    flagsTurned.wipeUnread = State.reset.wipeUnread ∧ flagsTurned ≠ State.reset ∧
    (commandAt flagsTurned 0x2C).isSome = true := by decide

end Sys2Proof.Tests
end

