-- ==== Sys2Proof/Proofs/DecodeFacts.lean ====
section
/-! PROOFS. Which operations decode to an instruction that only one configuration has, and which reach the decoder's
answer at all. -/

namespace Sys2Proof

/-- A command byte decodes to its row of the command map, or to the unknown command. -/
theorem decodeCommand_cases (c : Byte) :
    (c, decodeCommand c) ∈ commandTable ∨ decodeCommand c = .unknownCmd c := by
  unfold decodeCommand
  cases h : commandTable.lookup c with
  | none => exact .inr rfl
  | some i =>
    obtain ⟨l, l', hl, -⟩ := List.lookup_eq_some_iff.1 h
    exact .inl (by simp [hl])

/-- No command byte decodes to half a pixel. -/
theorem decodeCommand_ne_dwWriteMemBeats2 (c b : Byte) : decodeCommand c ≠ .dwWriteMemBeats2 b := by
  have table : ∀ r ∈ commandTable, r.2 ≠ .dwWriteMemBeats2 b := by
    simp [commandTable, flagRows, readRows, armRows, resetRows]
  rcases decodeCommand_cases c with h | h
  · exact table _ h
  · simp [h]

/-- A data write decodes to half a pixel only with two beats per pixel (41_protocol_fsm.md R181). -/
theorem pixelBeats_of_decodeDataWrite {beats : PixelBeats} {w : Word} {ps : PState} {b : Byte}
    (h : decodeDataWrite beats w ps = .dwWriteMemBeats2 b) : beats = .two := by
  cases beats with
  | two => rfl
  | one =>
    unfold decodeDataWrite at h
    split at h <;> cases h

/-- No data read decodes to half a pixel. -/
theorem decodeDataRead_ne_dwWriteMemBeats2 (rs : RdSub) (ps : PState) (b : Byte) :
    decodeDataRead rs ps ≠ .dwWriteMemBeats2 b := by
  fun_cases decodeDataRead rs ps <;> nofun

/-- An operation decodes to half a pixel only with two beats per pixel. -/
theorem pixelBeats_of_decode {cfg : Config} {ps : PState} {rs : RdSub} {op : Operation} {b : Byte}
    (h : decode cfg ps rs op = .ok (.dwWriteMemBeats2 b)) : cfg.pixelBeats = .two := by
  rcases decode_cases h with ⟨w, -, hi⟩ | ⟨w, -, hi⟩ | ⟨w, -, hi⟩ | ⟨_, _, _, -, -, -, -, hi⟩ |
    ⟨-, hi⟩ | ⟨-, hi⟩ | ⟨-, hi⟩
  · exact absurd hi.symm (decodeCommand_ne_dwWriteMemBeats2 _ b)
  · exact pixelBeats_of_decodeDataWrite hi.symm
  · exact absurd hi.symm (decodeDataRead_ne_dwWriteMemBeats2 rs ps b)
  all_goals cases hi

/-- An operation that exists on the wires decodes to an instruction (10_state.md R46). -/
theorem exists_decode_of_inBusSpace {cfg : Config} {op : Operation} (h : op.inBusSpace cfg = true)
    (ps : PState) (rs : RdSub) : ∃ i, decode cfg ps rs op = .ok i := by
  cases hd : decode cfg ps rs op with
  | ok i => exact ⟨i, rfl⟩
  | error e =>
    obtain ⟨off, we, w, rfl, -, hoff⟩ := Machine.decode_error hd
    exact absurd (of_decide_eq_true h) hoff

end Sys2Proof
end

