-- ==== Sys2Proof/Proofs/PixelCodecFacts.lean ====
section
/-! PROOFS. The bits of an encoded pixel. -/

namespace Sys2Proof.Machine

/-- Each colour field stands at the top of its lane and every other bit is 0 (44_pixel_codec.md R221). -/
theorem getLsbD_encode565 (p : Word) (i : Nat) :
    (encode565 p).getLsbD i =
      if 19 ≤ i ∧ i < 24 then p.getLsbD (i - 8)
      else if 10 ≤ i ∧ i < 16 then p.getLsbD (i - 5)
      else if 3 ≤ i ∧ i < 8 then p.getLsbD (i - 3) else false := by
  unfold encode565
  rw [BitVec.getLsbD_append, BitVec.getLsbD_append, BitVec.getLsbD_append]
  simp only [BitVec.getLsbD_shiftLeft, BitVec.getLsbD_setWidth, BitVec.getLsbD_extractLsb', BitVec.getLsbD_zero]
  grind

/-- A range of an encoded pixel whose bits are 0 is 0. -/
theorem extractLsb'_encode565_eq_zero {p : Word} {start len : Nat}
    (h : ∀ i < len, (encode565 p).getLsbD (start + i) = false) : (encode565 p).extractLsb' start len = 0 :=
  BitVec.eq_of_getLsbD_eq fun i hi => by simp [h i hi]

/-- `Encode565` answers cells of its own image: the unused byte and the low bits of each lane are 0 (R222). -/
theorem isEncoded_encode565 (p : Word) : isEncoded (encode565 p) = true := by
  simp only [isEncoded, Bool.and_eq_true, decide_eq_true_eq]
  refine ⟨⟨⟨?_, ?_⟩, ?_⟩, ?_⟩ <;>
  · refine extractLsb'_encode565_eq_zero fun i hi => ?_
    rw [getLsbD_encode565, if_neg (by omega), if_neg (by omega), if_neg (by omega)]

end Sys2Proof.Machine
end

