-- ==== Sys2Proof/Proofs/ExecEffect.lean ====
section
/-! PROOFS. What the execution of any instruction can do, said once: it writes registers, or it is a pixel write or
`POWER_ON`. -/

namespace Sys2Proof.Machine

/-- `t` is `s` with registers written only: no cell is stored, `wr_phase` is kept or cleared, and `READ_MEM` is entered
in the 18-bit format only. -/
structure RegisterUpdate (s t : State) : Prop where
  cfg        : t.cfg = s.cfg
  pending    : t.pending = s.pending
  fb         : t.fb = s.fb
  wrPhase    : t.wrPhase = s.wrPhase ∨ t.wrPhase = false
  readFormat : t.pstate = .readMem →
    t.controlFormat = format18 ∨ (s.pstate = .readMem ∧ t.controlFormat = s.controlFormat)

variable {s t : State} {f : State → State}

@[simp] theorem replyByte_pstate (s : State) (b : Byte) (ps : PState) : (s.replyByte b ps).pstate = ps := rfl

@[simp] theorem replyOpen_pstate (s : State) (ps : PState) : (s.replyOpen ps).pstate = ps := rfl

/-- A finite read sequence stays in itself or goes to `IDLE`. -/
@[simp] theorem nextRead_ne_readMem (q : ReadSeq) (k : SubState) : nextRead q k ≠ .readMem := by
  cases k <;> nofun

namespace RegisterUpdate

/-- An update that moves neither the protocol state nor the control format. -/
theorem of_pstate_eq (hcfg : t.cfg = s.cfg) (hpending : t.pending = s.pending) (hfb : t.fb = s.fb)
    (hwr : t.wrPhase = s.wrPhase) (hps : t.pstate = s.pstate) (hfmt : t.controlFormat = s.controlFormat) :
    RegisterUpdate s t :=
  ⟨hcfg, hpending, hfb, .inl hwr, fun h => .inr ⟨hps ▸ h, hfmt⟩⟩

/-- An update that goes to a protocol state other than `READ_MEM`. -/
theorem of_pstate_ne (hcfg : t.cfg = s.cfg) (hpending : t.pending = s.pending) (hfb : t.fb = s.fb)
    (hwr : t.wrPhase = s.wrPhase ∨ t.wrPhase = false) (hps : t.pstate ≠ .readMem) : RegisterUpdate s t :=
  ⟨hcfg, hpending, hfb, hwr, fun h => absurd h hps⟩

theorem refuse (s : State) : RegisterUpdate s s.refuse := of_pstate_eq rfl rfl rfl rfl rfl rfl

theorem raiseFatal (s : State) : RegisterUpdate s s.raiseFatal := of_pstate_eq rfl rfl rfl rfl rfl rfl

/-- The gate before an effect adds the refusal only. -/
theorem of_unlessFatal (hf : RegisterUpdate s (f s)) (h : s.unlessFatal f = .next t) : RegisterUpdate s t := by
  obtain ⟨-, rfl⟩ | ⟨-, rfl⟩ := unlessFatal_cases h
  · exact refuse s
  · exact hf

/-- The format check before an effect adds the fatal fault only. -/
theorem of_ifFormat18 (hf : s.controlFormat = format18 → RegisterUpdate s (f s)) :
    RegisterUpdate s (s.ifFormat18 f) := by
  obtain ⟨h18, h⟩ | ⟨-, h⟩ := ifFormat18_cases s f
  · exact h ▸ hf h18
  · exact h ▸ raiseFatal s

theorem resetRegisters (s : State) (r : Result) : RegisterUpdate s (s.resetRegisters.reply r) :=
  of_pstate_ne rfl rfl rfl (.inr rfl) (by simp)

end RegisterUpdate

/-- Every instruction is answered in every state. -/
theorem exists_exec_eq_next (i : Instr) (s : State) : ∃ t, exec i s = .next t := by
  cases i <;> exact ⟨_, rfl⟩

open RegisterUpdate in
/-- Everything the execution of an instruction can do. -/
theorem exec_cases {i : Instr} (h : exec i s = .next t) :
    RegisterUpdate s t ∨ (∃ p, i = .dwWriteMem p ∧ t = s.writePixel p) ∨
      (∃ b, i = .dwWriteMemBeats2 b ∧ t = s.writeHalf b) ∨ (i = .powerOn ∧ t = s.powerOnReset) := by
  cases i <;> dsimp only [exec] at h
  case powerOn =>
    cases h
    exact .inr (.inr (.inr ⟨rfl, rfl⟩))
  case dwWriteMem p =>
    obtain ⟨-, rfl⟩ | ⟨-, rfl⟩ := unlessFatal_cases h
    · exact .inl (refuse s)
    · exact .inr (.inl ⟨p, rfl, rfl⟩)
  case dwWriteMemBeats2 b =>
    obtain ⟨-, rfl⟩ | ⟨-, rfl⟩ := unlessFatal_cases h
    · exact .inl (refuse s)
    · exact .inr (.inr (.inl ⟨b, rfl, rfl⟩))
  all_goals refine .inl ?_
  case swreset | extReset => exact of_unlessFatal (resetRegisters s .quiet) h
  case ramwr => exact of_unlessFatal (of_pstate_ne rfl rfl rfl (.inr rfl) (by simp)) h
  case ramrd =>
    exact of_unlessFatal (of_ifFormat18 fun h18 => ⟨rfl, rfl, rfl, .inl rfl, fun _ => .inl h18⟩) h
  case drReadMem0 | drReadMem1 | drReadMem2 =>
    exact of_unlessFatal (of_ifFormat18 fun _ => of_pstate_eq rfl rfl rfl rfl rfl rfl) h
  case slpin | slpout | invoff | invon | dispoff | dispon | teoff | teon | idmoff | idmon | unknownCmd |
      dwIgnored | drIgnored | unmapped | paint =>
    exact of_unlessFatal (of_pstate_eq rfl rfl rfl rfl rfl rfl) h
  -- what remains arms a sequence or moves one on, and goes to a fixed state that is not `READ_MEM`
  all_goals exact of_unlessFatal (of_pstate_ne rfl rfl rfl (.inl rfl) (by simp)) h

/-! ### The pixel writes -/

theorem writePixel_pending (s : State) (p : Word) : (s.writePixel p).pending = s.pending := by
  obtain ⟨x, y, -, h⟩ | ⟨-, h⟩ := writePixel_cases s p <;> simp [h]

theorem writeHalf_pending (s : State) (b : Byte) : (s.writeHalf b).pending = s.pending := by
  obtain ⟨-, h⟩ | ⟨-, h⟩ := writeHalf_cases s b <;> simp [h, writePixel_pending]

/-- No instruction presents or withdraws an operation. -/
theorem exec_pending {i : Instr} (h : exec i s = .next t) : t.pending = s.pending := by
  rcases exec_cases h with hu | ⟨p, -, rfl⟩ | ⟨b, -, rfl⟩ | ⟨-, rfl⟩
  · exact hu.pending
  · exact writePixel_pending s p
  · exact writeHalf_pending s b
  · exact State.powerOnReset_pending s

end Sys2Proof.Machine
end

