-- ==== Sys2Proof/Proofs/Scope.lean ====
section
/-! PROOFS. The invariant of 00_scope.md R6 is kept by every step, and no state is stuck (R15). -/

namespace Sys2Proof.Machine

variable {s t : State}

/-- The step of a decoded oldest operation is its execution. -/
theorem step_of_decode {op : Operation} {rest : List Operation} {i : Instr} (hp : s.pending = op :: rest)
    (hd : decode s.cfg s.pstate s.rdSub op = .ok i) : step s = exec i { s with pending := rest } := by
  simp [step, hp, hd]

namespace Inv

/-- An operation taken from the ones presented changes nothing the invariant speaks of. -/
theorem take (h : Inv s) (rest : List Operation) : Inv { s with pending := rest } :=
  ⟨h.cfgWf, h.fbCanon, h.fbInPanel, h.fbEncoded, h.readFormat, h.beatsPhase⟩

/-- Writing registers keeps the invariant. -/
theorem registerUpdate (h : Inv s) (hu : RegisterUpdate s t) : Inv t where
  cfgWf := hu.cfg ▸ h.cfgWf
  fbCanon := hu.fb ▸ h.fbCanon
  fbInPanel := hu.cfg ▸ hu.fb ▸ h.fbInPanel
  fbEncoded := hu.fb ▸ h.fbEncoded
  readFormat hps := by
    obtain h18 | ⟨hread, hfmt⟩ := hu.readFormat hps
    · exact h18
    · exact hfmt.trans (h.readFormat hread)
  beatsPhase hone := by
    obtain hwr | hwr := hu.wrPhase
    · exact hwr.trans (h.beatsPhase (hu.cfg ▸ hone))
    · exact hwr

/-- Storing an encoded pixel in a cell of the panel keeps the invariant. -/
theorem fbSet (h : Inv s) {x y : Nat} (hx : x < s.cfg.W) (hy : y < s.cfg.H) (p : Word) :
    Inv (s.fbSet x y (encode565 p)) where
  cfgWf := h.cfgWf
  fbCanon := Memory.wf_write _ _ _ h.fbCanon
  fbInPanel i c hmem := by
    obtain ⟨rfl, -⟩ | hmem := Memory.mem_write hmem
    · exact cellIndex_lt hx hy
    · exact h.fbInPanel i c hmem
  fbEncoded i c hmem := by
    obtain ⟨-, rfl⟩ | hmem := Memory.mem_write hmem
    · exact isEncoded_encode565 p
    · exact h.fbEncoded i c hmem
  readFormat := h.readFormat
  beatsPhase := h.beatsPhase

/-- Moving the cursor and replying keeps the invariant. -/
theorem advanceCursor_reply (h : Inv s) (r : Result) : Inv (s.advanceCursor.reply r) :=
  h.registerUpdate (.of_pstate_eq rfl rfl rfl rfl rfl rfl)

/-- A pixel write keeps the invariant: it stores on the panel only (41_protocol_fsm.md R180). -/
theorem writePixel (h : Inv s) (p : Word) : Inv (s.writePixel p) := by
  obtain ⟨x, y, hpos, hw⟩ | ⟨-, hw⟩ := writePixel_cases s p
  · obtain ⟨hx, hy⟩ := cursorPosition_lt hpos
    exact hw ▸ (h.fbSet hx hy p).advanceCursor_reply .stored
  · exact hw ▸ h.advanceCursor_reply .quiet

/-- Half a pixel write keeps the invariant where a pixel has two beats, the one case in which it can set `wr_phase`
(R181). -/
theorem writeHalf (h : Inv s) (hbeats : s.cfg.pixelBeats = .two) (b : Byte) : Inv (s.writeHalf b) := by
  obtain ⟨-, hw⟩ | ⟨-, hw⟩ := writeHalf_cases s b
  · rw [hw]
    exact ⟨h.cfgWf, h.fbCanon, h.fbInPanel, h.fbEncoded, h.readFormat, fun hone => by simp [hbeats] at hone⟩
  · have cleared : Inv ((s.shift8 b).setWrPhase false) :=
      h.registerUpdate ⟨rfl, rfl, rfl, .inr rfl, fun hps => .inr ⟨hps, rfl⟩⟩
    exact hw ▸ cleared.writePixel _

/-- `POWER_ON` establishes the invariant for a legal configuration (46_display_ctrl_top.md R255). -/
theorem powerOnReset (h : s.cfg.wf = true) : Inv s.powerOnReset where
  cfgWf := h
  fbCanon := Memory.wf_nil
  fbInPanel i c hmem := by simp at hmem
  fbEncoded i c hmem := by simp at hmem
  readFormat hps := by simp at hps
  beatsPhase _ := rfl

/-- Every instruction keeps the invariant, half a pixel write where a pixel has two beats. -/
theorem exec_next (h : Inv s) {i : Instr} (hbeats : ∀ b, i = .dwWriteMemBeats2 b → s.cfg.pixelBeats = .two)
    (hx : exec i s = .next t) : Inv t := by
  rcases exec_cases hx with hu | ⟨p, -, rfl⟩ | ⟨b, hi, rfl⟩ | ⟨-, rfl⟩
  · exact h.registerUpdate hu
  · exact h.writePixel p
  · exact h.writeHalf (hbeats b hi) b
  · exact powerOnReset h.cfgWf

end Inv

/-- Settles O49: a step waits or executes the decoded oldest operation; every execution keeps the invariant, and half a
pixel is decoded only where a pixel has two beats. -/
theorem everyStepKeepsTheInvariant : Obligations.EveryStepKeepsTheInvariant := by
  intro s t hs h
  obtain ⟨-, rfl⟩ | ⟨op, rest, i, -, hd, hx⟩ := step_cases h
  · exact hs
  · exact (hs.take rest).exec_next (fun b hi => pixelBeats_of_decode (hi ▸ hd)) hx

/-- Settles O37: an operation on the wires decodes, every instruction is answered, and none touches the operations
still presented. -/
theorem everyOperationIsEnabled : Obligations.EveryOperationIsEnabled := by
  intro s op rest hp hop
  obtain ⟨i, hd⟩ := exists_decode_of_inBusSpace hop s.pstate s.rdSub
  obtain ⟨t, ht⟩ := exists_exec_eq_next i { s with pending := rest }
  exact ⟨t, (step_of_decode hp hd).trans ht, exec_pending ht⟩

end Sys2Proof.Machine
end

