-- ==== Sys2Proof/Proofs/UnreadRegisters.lean ====
section
/-! PROOFS. The registers that no operation reads decide nothing (10_state.md R32, R36, R40, R42): a step from the
wiped state and from the state itself end alike once they are wiped. -/

namespace Sys2Proof.Machine

/-- An outcome with the unread registers of its state wiped; a stop has none. -/
def wipeOutcome : Host.Outcome State Fault Refusal → Host.Outcome State Fault Refusal
  | .next t => .next t.wipeUnread
  | .fault r => .fault r
  | .refused r => .refused r

/-- A wiped outcome that goes on is the wiped next state of an outcome that goes on. -/
theorem wipeOutcome_eq_next {o : Host.Outcome State Fault Refusal} {u : State} (h : wipeOutcome o = .next u) :
    ∃ t, o = .next t ∧ t.wipeUnread = u := by
  cases o with
  | next t => exact ⟨t, rfl, Host.Outcome.next.inj h⟩
  | fault r => cases h
  | refused r => cases h

/-- What `f` does to the registers that are read does not depend on the unread ones. -/
def BlindToUnread (f : State → State) : Prop := ∀ s, (f s).wipeUnread = (f s.wipeUnread).wipeUnread

namespace BlindToUnread

variable {f g : State → State}

/-- A test of registers that are read chooses between blind effects blindly. -/
theorem ite {c : State → Prop} [DecidablePred c] (hc : ∀ s, c s.wipeUnread ↔ c s) (hf : BlindToUnread f)
    (hg : BlindToUnread g) : BlindToUnread fun s => if c s then f s else g s := by
  intro s
  by_cases h : c s
  · simpa [h, (hc s).2 h] using hf s
  · simpa [h, mt (hc s).1 h] using hg s

/-- The format check reads `control_format`, not `interface_format` (10_state.md R36). -/
theorem ifFormat18 (hf : BlindToUnread f) : BlindToUnread fun s => s.ifFormat18 f :=
  ite (fun _ => Iff.rfl) hf fun _ => rfl

/-- A pixel write reads the cursor, the orientation and the window; `dirty`, which a store raises, is unread itself. -/
theorem writePixel (p : Word) : BlindToUnread fun s => s.writePixel p := by
  intro s
  have hpos : s.wipeUnread.cursorPosition = s.cursorPosition := rfl
  simp only [State.writePixel, hpos]
  cases s.cursorPosition with
  | none => rfl
  | some q => rfl

theorem writeHalf (b : Byte) : BlindToUnread fun s => s.writeHalf b :=
  ite (fun _ => Iff.rfl) (fun s => writePixel _ ((s.shift8 b).setWrPhase false)) fun _ => rfl

theorem resetRegisters (r : Result) : BlindToUnread fun s => s.resetRegisters.reply r := by
  intro s
  simp [State.wipeUnread]

theorem powerOnReset : BlindToUnread State.powerOnReset := by
  intro s
  simp [State.wipeUnread]

/-- The gate before a blind effect tests `fatal`, which is not wiped. -/
theorem unlessFatal (hf : BlindToUnread f) (s : State) :
    wipeOutcome (s.unlessFatal f) = wipeOutcome (s.wipeUnread.unlessFatal f) :=
  congrArg Host.Outcome.next
    (ite (c := fun s => s.fatal = true) (f := State.refuse) (fun _ => Iff.rfl) (fun _ => rfl) hf s)

end BlindToUnread

open BlindToUnread in
/-- No instruction reads an unread register. -/
theorem wipeOutcome_exec (i : Instr) (s : State) :
    wipeOutcome (exec i s) = wipeOutcome (exec i s.wipeUnread) := by
  cases i <;> dsimp only [exec]
  case powerOn => exact congrArg Host.Outcome.next (powerOnReset s)
  case swreset | extReset => exact unlessFatal (resetRegisters .quiet) s
  case ramrd | drReadMem0 | drReadMem1 | drReadMem2 => exact unlessFatal (ifFormat18 fun _ => rfl) s
  case dwWriteMem p => exact unlessFatal (writePixel p) s
  case dwWriteMemBeats2 b => exact unlessFatal (writeHalf b) s
  -- what remains writes fields from fields that are kept, without a choice
  all_goals exact unlessFatal (fun _ => rfl) s

/-- Nor does the decoder, so no step does. -/
theorem wipeOutcome_step (s : State) : wipeOutcome (step s) = wipeOutcome (step s.wipeUnread) := by
  have hpending : s.wipeUnread.pending = s.pending := rfl
  have hdecode : decode s.wipeUnread.cfg s.wipeUnread.pstate s.wipeUnread.rdSub =
      decode s.cfg s.pstate s.rdSub := rfl
  unfold step
  rw [hpending, hdecode]
  cases s.pending with
  | nil => rfl
  | cons op rest =>
    dsimp only
    cases decode s.cfg s.pstate s.rdSub op with
    | ok i => exact wipeOutcome_exec i { s with pending := rest }
    | error e => rfl

/-- Settles O51: both steps end, wiped, like the step of the one wiped state. -/
theorem unreadRegistersDecideNothing : Obligations.UnreadRegistersDecideNothing := by
  intro s s' t hs hstep
  have hwiped : wipeOutcome (step s') = .next t.wipeUnread :=
    calc wipeOutcome (step s')
      _ = wipeOutcome (step s'.wipeUnread) := wipeOutcome_step s'
      _ = wipeOutcome (step s) := by rw [← hs, wipeOutcome_step s]
      _ = .next t.wipeUnread := by rw [hstep]; rfl
  obtain ⟨t', hstep', ht'⟩ := wipeOutcome_eq_next hwiped
  exact ⟨t', hstep', ht'.symm⟩

end Sys2Proof.Machine
end

