-- ==== Sys2Proof/Proofs/StateRules.lean ====
section
/-! PROOFS. The rules of 10_state.md about the state as a whole: its value after reset (R50), the configuration no
operation writes (R37), and the steps that run no operation. -/

namespace Sys2Proof.Machine

variable {s t : State}

/-! ### The configuration -/

theorem writePixel_cfg (s : State) (p : Word) : (s.writePixel p).cfg = s.cfg := by
  obtain ⟨x, y, -, h⟩ | ⟨-, h⟩ := writePixel_cases s p <;> simp [h]

theorem writeHalf_cfg (s : State) (b : Byte) : (s.writeHalf b).cfg = s.cfg := by
  obtain ⟨-, h⟩ | ⟨-, h⟩ := writeHalf_cases s b <;> simp [h, writePixel_cfg]

/-- No instruction writes the configuration. -/
theorem exec_cfg {i : Instr} (h : exec i s = .next t) : t.cfg = s.cfg := by
  rcases exec_cases h with hu | ⟨p, -, rfl⟩ | ⟨b, -, rfl⟩ | ⟨-, rfl⟩
  · exact hu.cfg
  · exact writePixel_cfg s p
  · exact writeHalf_cfg s b
  · exact State.powerOnReset_cfg s

/-- Settles O39: a step waits or executes, and no execution writes the configuration. -/
theorem configurationNeverChanges : Obligations.ConfigurationNeverChanges := by
  intro s t h
  obtain ⟨-, rfl⟩ | ⟨op, rest, i, -, -, hx⟩ := step_cases h
  · rfl
  · exact exec_cfg (s := { s with pending := rest }) hx

/-! ### The state after reset -/

/-- Settles O1: a closed fact about the one reset state, evaluated. -/
theorem resetStateFieldByField : Obligations.ResetStateFieldByField := by
  unfold Obligations.ResetStateFieldByField
  decide

/-- The state after power-on meets the invariant: the `POWER_ON` operation establishes it, and its next state differs
only in the count of power-ons, which the invariant does not read. -/
theorem Inv.afterPowerOn {cfg : Config} (h : cfg.wf = true) : Inv (State.afterPowerOn cfg) :=
  (Inv.powerOnReset (s := State.afterPowerOn cfg) h).registerUpdate (.of_pstate_eq rfl rfl rfl rfl rfl rfl)

theorem wf_configReference : Config.reference.wf = true := by decide

/-- Settles O48: the reset state is the state after power-on of the reference configuration, which is legal. -/
theorem invariantHoldsAtReset : Obligations.InvariantHoldsAtReset :=
  ⟨Inv.afterPowerOn wf_configReference, fun _ h => Inv.afterPowerOn h⟩

/-! ### Steps that run no operation -/

theorem step_of_pending_nil (h : s.pending = []) : step s = .next s := by
  simp [step, h]

/-- An offset that does not fit the offset input is rejected by name (10_state.md R46). -/
theorem decode_bus_of_le {cfg : Config} {off : Nat} (h : 2 ^ cfg.addrW ≤ off) (ps : PState) (rs : RdSub)
    (we : Bool) (w : Word) : decode cfg ps rs (.bus off we w) = .error (.offsetOutsideBusSpace off) := by
  simp [decode, h.not_gt]

/-- The step of an oldest operation that is rejected stops with the name of the rejection. -/
theorem step_of_decode_error {op : Operation} {rest : List Operation} {off : Nat} (hp : s.pending = op :: rest)
    (hd : decode s.cfg s.pstate s.rdSub op = .error (.offsetOutsideBusSpace off)) :
    step s = .fault (.offsetOutsideBusSpace off) := by
  simp [step, hp, hd]

/-- Settles O36: the wait, and the stop of an offset outside the bus space. -/
theorem stepWaitsOrStopsByName : Obligations.StepWaitsOrStopsByName :=
  ⟨fun _ => step_of_pending_nil,
    fun s _ we w _ hp hoff => step_of_decode_error hp (decode_bus_of_le hoff s.pstate s.rdSub we w)⟩

end Sys2Proof.Machine
end

