-- ==== Sys2Proof/Proofs/BusAccess.lean ====
section
/-! PROOFS. The bus rules of 20_memory.md: unmapped accesses (R63, R67), the ignored upper byte of commands and
parameters (R61), and the one writer of the framebuffer (R76). -/

namespace Sys2Proof

variable {cfg : Config} {ps : PState} {rs : RdSub}

/-! ### Unmapped accesses -/

/-- An access that is neither a write at `OFF_CMD` nor any access at `OFF_DATA` is unmapped (R63, R67). -/
theorem decode_bus_unmapped {off : Nat} {we : Bool} (hoff : off < 2 ^ cfg.addrW)
    (hcmd : ¬ (off = cfg.offCmd ∧ we = true)) (hdata : off ≠ cfg.offData) (w : Word) :
    decode cfg ps rs (.bus off we w) = .ok (.unmapped off we w) := by
  simp [decode, hoff, hcmd, hdata]

/-! ### The upper byte -/

/-- Words with the same low byte carry the same parameter byte (R61). -/
theorem paramByte_eq_of_mod_eq {w w' : Word} (h : w.toNat % 256 = w'.toNat % 256) :
    paramByte w = paramByte w' := by
  apply BitVec.eq_of_toNat_eq
  simpa [paramByte_eq_ofNat] using h

/-- A data write that is consumed, other than a whole pixel, is decoded by its parameter byte alone. -/
theorem decodeDataWrite_congr {beats : PixelBeats} {w w' : Word} (hw : paramByte w = paramByte w')
    (hconsumed : ignoresWrite ps = false) (hpixel : ps = .writeMem → beats = .two) :
    decodeDataWrite beats w ps = decodeDataWrite beats w' ps := by
  cases ps with
  | caset k | raset k => cases k <;> simp only [decodeDataWrite, hw]
  | madctl0 | colmod0 | gamset0 => simp only [decodeDataWrite, hw]
  | writeMem =>
    obtain rfl := hpixel rfl
    simp only [decodeDataWrite, hw]
  | idle | readMem | read => cases hconsumed

/-! ### What an instruction that touches the cells is decoded from -/

/-- The instructions that can change the stored cells: the pixel writes and `POWER_ON` (R76). -/
def Instr.ChangesCells (i : Instr) : Prop :=
  (∃ p, i = .dwWriteMem p) ∨ (∃ b, i = .dwWriteMemBeats2 b) ∨ i = .powerOn

theorem not_changesCells_decodeCommand (c : Byte) : ¬ (decodeCommand c).ChangesCells := by
  have table : ∀ r ∈ commandTable, ¬ r.2.ChangesCells := by
    simp [commandTable, flagRows, readRows, armRows, resetRows, Instr.ChangesCells]
  rcases decodeCommand_cases c with h | h
  · exact table _ h
  · simp [h, Instr.ChangesCells]

theorem not_changesCells_decodeDataRead (rs : RdSub) (ps : PState) : ¬ (decodeDataRead rs ps).ChangesCells := by
  fun_cases decodeDataRead rs ps <;> simp [Instr.ChangesCells]

/-- A data write can change the cells in `WRITE_MEM` only. -/
theorem pstate_of_changesCells_decodeDataWrite {beats : PixelBeats} {w : Word}
    (h : (decodeDataWrite beats w ps).ChangesCells) : ps = .writeMem := by
  cases ps with
  | writeMem => rfl
  | caset k | raset k => cases k <;> simp [decodeDataWrite, Instr.ChangesCells] at h
  | _ => simp [decodeDataWrite, Instr.ChangesCells] at h

theorem decodeDataWrite_ne_powerOn (beats : PixelBeats) (w : Word) (ps : PState) :
    decodeDataWrite beats w ps ≠ .powerOn := by
  fun_cases decodeDataWrite beats w ps <;> nofun

/-- An operation that can change the cells is a data write in `WRITE_MEM`, and not decoded to `POWER_ON`, or it is
`POWER_ON`. -/
theorem op_of_decode_changesCells {op : Operation} {i : Instr} (h : decode cfg ps rs op = .ok i)
    (hi : i.ChangesCells) :
    (ps = .writeMem ∧ (∃ w, op = .bus cfg.offData true w) ∧ i ≠ .powerOn) ∨ op = .powerOn := by
  rcases decode_cases h with ⟨w, -, rfl⟩ | ⟨w, hop, rfl⟩ | ⟨w, -, rfl⟩ | ⟨_, _, _, -, -, -, -, rfl⟩ |
    ⟨-, rfl⟩ | ⟨hop, -⟩ | ⟨-, rfl⟩
  · exact absurd hi (not_changesCells_decodeCommand _)
  · exact .inl ⟨pstate_of_changesCells_decodeDataWrite hi, ⟨w, hop⟩, decodeDataWrite_ne_powerOn _ w ps⟩
  · exact absurd hi (not_changesCells_decodeDataRead rs ps)
  · simp [Instr.ChangesCells] at hi
  · simp [Instr.ChangesCells] at hi
  · exact .inr hop
  · simp [Instr.ChangesCells] at hi

end Sys2Proof

namespace Sys2Proof.Machine

variable {s t : State}

/-- An unmapped access is answered with the diagnostic and the offset, and nothing else happens (R67). -/
theorem exec_unmapped_of_not_fatal (h : s.fatal = false) (off : Nat) (we : Bool) (w : Word) :
    exec (.unmapped off we w) s = .next (s.reply (.diagnose (.unimplOffset off))) :=
  unlessFatal_of_not_fatal (fun s => s.reply (.diagnose (.unimplOffset off))) h

/-! ### What an instruction that changed the cells reports -/

/-- A pixel write that changes the cells raises `dirty` and reports `invalidate` (45_framebuffer_memory.md R236). -/
theorem writePixel_marks_of_fb_ne {p : Word} (h : (s.writePixel p).fb ≠ s.fb) :
    (s.writePixel p).dirty = true ∧ (s.writePixel p).result.invalidate = true := by
  obtain ⟨x, y, -, hw⟩ | ⟨-, hw⟩ := writePixel_cases s p
  · rw [hw]
    exact ⟨rfl, rfl⟩
  · exact absurd (congrArg State.fb hw) h

/-- So does half a pixel write: only the second half changes the cells, and it is a pixel write. -/
theorem writeHalf_marks_of_fb_ne {b : Byte} (h : (s.writeHalf b).fb ≠ s.fb) :
    (s.writeHalf b).dirty = true ∧ (s.writeHalf b).result.invalidate = true := by
  obtain ⟨-, hw⟩ | ⟨-, hw⟩ := writeHalf_cases s b
  · exact absurd (congrArg State.fb hw) h
  · rw [hw] at h ⊢
    exact writePixel_marks_of_fb_ne h

/-- An execution that changes the cells is of an instruction that can, and marks the change unless it is `POWER_ON`. -/
theorem exec_of_fb_ne {i : Instr} (h : exec i s = .next t) (hfb : t.fb ≠ s.fb) :
    i.ChangesCells ∧ (i ≠ .powerOn → t.dirty = true ∧ t.result.invalidate = true) := by
  rcases exec_cases h with hu | ⟨p, hi, rfl⟩ | ⟨b, hi, rfl⟩ | ⟨hi, -⟩
  · exact absurd hu.fb hfb
  · exact ⟨.inl ⟨p, hi⟩, fun _ => writePixel_marks_of_fb_ne hfb⟩
  · exact ⟨.inr (.inl ⟨b, hi⟩), fun _ => writeHalf_marks_of_fb_ne hfb⟩
  · exact ⟨.inr (.inr hi), fun hne => absurd hi hne⟩

/-! ### The obligations -/

/-- Settles O14: the command decoder and the decoder of consumed data writes read the parameter byte only. -/
theorem upperByteOfParametersIgnored : Obligations.UpperByteOfParametersIgnored := by
  intro cfg ps rs w w' hwf hmod
  have hbyte : paramByte w = paramByte w' := paramByte_eq_of_mod_eq hmod
  constructor
  · rw [decode_command hwf, decode_command hwf, hbyte]
  · intro hconsumed hpixel
    rw [decode_dataWrite hwf, decode_dataWrite hwf, decodeDataWrite_congr hbyte hconsumed hpixel]

/-- Settles O40: a step that changes the cells executes an instruction that can, and such an instruction is decoded
from a data write in `WRITE_MEM` or from `POWER_ON` only. -/
theorem framebufferHasOneWriter : Obligations.FramebufferHasOneWriter := by
  intro s t op rest _ hp h hfb
  obtain ⟨-, rfl⟩ | ⟨op', rest', i, hp', hd, hx⟩ := step_cases h
  · exact absurd rfl hfb
  · obtain ⟨rfl, rfl⟩ := List.cons.inj (hp.symm.trans hp')
    obtain ⟨hi, hmarks⟩ := exec_of_fb_ne (s := { s with pending := rest }) hx hfb
    obtain ⟨hps, hop, hne⟩ | hop := op_of_decode_changesCells hd hi
    · exact .inl ⟨hps, hop, hmarks hne⟩
    · exact .inr hop

/-- Settles O31: neither offset is mapped, and the execution only replies with the diagnostic. -/
theorem unmappedAccessIsReportedOnly : Obligations.UnmappedAccessIsReportedOnly :=
  ⟨fun _ _ _ _ _ w hoff hcmd hdata => decode_bus_unmapped hoff (fun h => hcmd h.1) hdata w,
    fun _ off we w hfatal => exec_unmapped_of_not_fatal hfatal off we w⟩

/-- Settles O32: a read is no write at `OFF_CMD`, and a legal configuration keeps the two offsets apart (decision
D8). -/
theorem readOfCommandRegisterIsUnmapped : Obligations.ReadOfCommandRegisterIsUnmapped := by
  intro cfg ps rs w hwf
  have hlt : cfg.offCmd < cfg.offData := offCmd_lt_offData_of_wf hwf
  exact decode_bus_unmapped (hlt.trans (offData_lt_of_wf hwf)) (by simp) hlt.ne w

end Sys2Proof.Machine
end

