-- ==== Sys2Proof/Proofs/Encoding.lean ====
section
/-! PROOFS. The encoding of 30_encoding.md: the command map (R92 to R94), the decoder as the left inverse of the encoder
and its range (R107), and the two fields of a window sequence (R96, R97). -/

namespace Sys2Proof

variable {cfg : Config} {ps : PState} {rs : RdSub}

/-! ### The command map -/

theorem commandTable_perm_knownOpcodes : (commandTable.map Prod.fst).Perm knownOpcodes := by decide

theorem decodeCommand_of_mem_commandTable : ∀ r ∈ commandTable, decodeCommand r.1 = r.2 := by decide

/-- A byte is an unknown command exactly where the command map has no row for it (R94). -/
theorem decodeCommand_eq_unknownCmd_iff (c : Byte) : decodeCommand c = .unknownCmd c ↔ c ∉ knownOpcodes := by
  have named : ∀ r ∈ commandTable, r.2 ≠ .unknownCmd r.1 := by decide
  constructor
  · intro h hc
    obtain ⟨r, hr, rfl⟩ := List.mem_map.1 (commandTable_perm_knownOpcodes.mem_iff.2 hc)
    exact named r hr ((decodeCommand_of_mem_commandTable r hr).symm.trans h)
  · intro hc
    refine (decodeCommand_cases c).resolve_left fun hrow => hc ?_
    exact commandTable_perm_knownOpcodes.mem_iff.1 (List.mem_map_of_mem hrow)

/-- The numbers of the listed bytes are those below 256 whose byte is listed. -/
theorem filter_mem_knownOpcodes_perm :
    ((List.range 256).filter fun n => BitVec.ofNat 8 n ∈ knownOpcodes).Perm (knownOpcodes.map BitVec.toNat) := by
  refine (List.perm_ext_iff_of_nodup (List.nodup_range.filter _) (by decide)).2 fun n => ?_
  simp only [List.mem_filter, List.mem_range, decide_eq_true_eq, List.mem_map]
  constructor
  · rintro ⟨hn, hmem⟩
    exact ⟨_, hmem, (BitVec.toNat_ofNat n 8).trans (Nat.mod_eq_of_lt hn)⟩
  · rintro ⟨c, hc, rfl⟩
    exact ⟨c.isLt, by simpa using hc⟩

/-- Settles O45: the rows are evaluated; the unknown bytes are the 256 less the 26 listed ones. -/
theorem commandMapHas26Rows : Obligations.CommandMapHas26Rows := by
  refine ⟨rfl, by decide, commandTable_perm_knownOpcodes, decodeCommand_of_mem_commandTable, ?_⟩
  have hlisted : ((List.range 256).filter fun n => BitVec.ofNat 8 n ∈ knownOpcodes).length = 26 :=
    filter_mem_knownOpcodes_perm.length_eq
  have hsplit := List.length_eq_length_filter_add (l := List.range 256) fun n => BitVec.ofNat 8 n ∈ knownOpcodes
  rw [List.length_range, hlisted] at hsplit
  simp only [decodeCommand_eq_unknownCmd_iff, decide_not]
  omega

/-! ### Decoding what was encoded -/

theorem decode_paramWrite (h : cfg.wf = true) (b : Byte) :
    decode cfg ps rs (paramWrite cfg b) = .ok (decodeDataWrite cfg.pixelBeats (b.setWidth 16) ps) :=
  decode_dataWrite h _

theorem decode_commandWrite (h : cfg.wf = true) (c : Byte) :
    decode cfg ps rs (commandWrite cfg c) = .ok (decodeCommand c) := by
  rw [commandWrite, decode_command h, paramByte_setWidth]

/-- In a state that ignores writes the whole word is the operand (R162). -/
theorem decodeDataWrite_of_ignoresWrite (h : ignoresWrite ps = true) (beats : PixelBeats) (w : Word) :
    decodeDataWrite beats w ps = .dwIgnored w := by
  cases ps with
  | idle | readMem | read => rfl
  | _ => cases h

theorem decodeDataRead_of_ignoresRead (h : ignoresRead ps = true) : decodeDataRead rs ps = .drIgnored := by
  cases ps with
  | read | readMem => cases h
  | _ => rfl

/-- An unmapped access is well formed exactly where `decode` routes it past both registers (R63, R67). -/
theorem wf_unmapped_iff (off : Nat) (we : Bool) (w : Word) :
    (Instr.unmapped off we w).wf cfg ps rs = true ↔
      off < 2 ^ cfg.addrW ∧ ¬ (off = cfg.offCmd ∧ we = true) ∧ off ≠ cfg.offData := by
  simp [Instr.wf, and_assoc, imp_iff_not_or]

/-- Settles O46: a command byte has its row or, for an unknown command, none; a data-phase instruction is well formed in
the one kind of state whose row it is, and the parameter byte comes back whole. -/
theorem decodeOfEncodeIsTheInstruction : Obligations.DecodeOfEncodeIsTheInstruction := by
  intro cfg ps rs i hcfg hi
  cases i
  case unknownCmd c =>
    have hc : c ∉ knownOpcodes := by simpa [Instr.wf] using hi
    exact (decode_commandWrite hcfg c).trans (congrArg Except.ok ((decodeCommand_eq_unknownCmd_iff c).2 hc))
  case unmapped off we w =>
    obtain ⟨hoff, hcmd, hdata⟩ := (wf_unmapped_iff off we w).1 hi
    exact decode_bus_unmapped hoff hcmd hdata w
  case extReset | powerOn | paint => rfl
  case dwIgnored w =>
    exact (decode_dataWrite hcfg w).trans (congrArg Except.ok (decodeDataWrite_of_ignoresWrite hi _ w))
  case drIgnored => exact (decode_dataRead hcfg 0).trans (congrArg Except.ok (decodeDataRead_of_ignoresRead hi))
  case dwWriteMem p =>
    obtain ⟨rfl, hbeats⟩ := of_decide_eq_true hi
    exact (decode_dataWrite hcfg p).trans (by rw [hbeats]; rfl)
  case dwWriteMemBeats2 b =>
    obtain ⟨rfl, hbeats⟩ := of_decide_eq_true hi
    rw [encode, decode_paramWrite hcfg, hbeats, decodeDataWrite, paramByte_setWidth]
  case dwCaset0 b | dwCaset1 b | dwCaset2 b | dwCaset3 b | dwRaset0 b | dwRaset1 b | dwRaset2 b | dwRaset3 b |
      dwMadctl0 b | dwColmod0 b | dwGamset0 b =>
    obtain rfl := of_decide_eq_true hi
    rw [encode, decode_paramWrite hcfg, decodeDataWrite, paramByte_setWidth]
  case drReadMem0 | drReadMem1 | drReadMem2 =>
    obtain ⟨rfl, rfl⟩ := of_decide_eq_true hi
    exact decode_dataRead hcfg 0
  case swreset | rddid | rddst | rddpm | rddmadctl | rddcolmod | rddim | rddsm | rddsdr | slpin | slpout | invoff |
      invon | gamset | dispoff | dispon | caset | raset | ramwr | ramrd | teoff | teon | madctl | idmoff | idmon |
      colmod =>
    exact decode_commandWrite hcfg _
  -- what remains is the four reads of each of the eight sequences
  all_goals
    obtain rfl := of_decide_eq_true hi
    exact decode_dataRead hcfg 0

/-! ### What the decoder answers -/

/-- A command is well formed in every state; an unknown one because its byte has no row. -/
theorem wf_decodeCommand (c : Byte) : (decodeCommand c).wf cfg ps rs = true := by
  have table : ∀ r ∈ commandTable, r.2.wf cfg ps rs = true := List.all_eq_true.1 rfl
  rcases decodeCommand_cases c with h | h
  · exact table _ h
  · rw [h]
    simpa [Instr.wf] using (decodeCommand_eq_unknownCmd_iff c).1 h

/-- The protocol state and `PIXEL_BEATS` that select the row of a data write are the ones the row asks for (R160). -/
theorem wf_decodeDataWrite (w : Word) : (decodeDataWrite cfg.pixelBeats w ps).wf cfg ps rs = true := by
  cases ps with
  | caset k | raset k => cases k <;> rfl
  | writeMem => cases h : cfg.pixelBeats <;> simp [decodeDataWrite, Instr.wf, h]
  | _ => rfl

/-- The protocol state and `rd_sub` that select the row of a data read are the ones the row asks for (R161). -/
theorem wf_decodeDataRead : (decodeDataRead rs ps).wf cfg ps rs = true := by
  cases ps with
  | read q k => cases q <;> cases k <;> rfl
  | readMem => cases rs <;> rfl
  | _ => rfl

/-- A decoded operation exists on the wires (10_state.md R46). -/
theorem inBusSpace_of_decode {op : Operation} {i : Instr} (h : decode cfg ps rs op = .ok i) :
    op.inBusSpace cfg = true := by
  cases op with
  | bus off we w =>
    by_contra hoff
    rw [Machine.decode_bus_of_le (by simpa [Operation.inBusSpace] using hoff)] at h
    cases h
  | _ => rfl

/-- Settles O47: each of the decoder's answers is well formed in the state and configuration it was selected by. -/
theorem decodedInstructionIsWellFormed : Obligations.DecodedInstructionIsWellFormed := by
  intro cfg ps rs op i h
  refine ⟨?_, inBusSpace_of_decode h⟩
  rcases decode_cases h with ⟨w, -, rfl⟩ | ⟨w, -, rfl⟩ | ⟨w, -, rfl⟩ | ⟨off, we, w, -, hoff, hcmd, hdata, rfl⟩ |
    ⟨-, rfl⟩ | ⟨-, rfl⟩ | ⟨-, rfl⟩
  · exact wf_decodeCommand _
  · exact wf_decodeDataWrite w
  · exact wf_decodeDataRead
  · exact (wf_unmapped_iff off we w).2 ⟨hoff, hcmd, hdata⟩
  all_goals rfl

/-- Settles O44: each access reaches its decoder in every legal configuration, which is then evaluated on the word. -/
theorem writtenOutWordsDecode : Obligations.WrittenOutWordsDecode := by
  intro cfg ps rs hcfg
  have hone : Config.wf { cfg with pixelBeats := .one } = true := hcfg
  exact ⟨decode_command hcfg _, decode_command hcfg _, decode_command hcfg _, decode_command hcfg _,
    decode_command hcfg _, decode_command hcfg _, decode_command hcfg _, decode_dataWrite hcfg _,
    decode_dataWrite hcfg _, decode_dataWrite hone _, decode_dataRead hcfg _, decode_dataRead hcfg _, rfl⟩

end Sys2Proof

namespace Sys2Proof.Machine

variable {s : State}

/-! ### Window sequences -/

/-- Two bytes put together, the first one high (20_memory.md R60). -/
theorem toNat_append_byte (a b : Byte) : (a ++ b : Word).toNat = a.toNat * 256 + b.toNat := by
  rw [BitVec.toNat_append, ← Nat.shiftLeft_add_eq_or_of_lt b.isLt, Nat.shiftLeft_eq]

/-- The end of a column window sequence: each field holds its own two bytes, as the two shifts before it overwrite all
of `shift16` (41_protocol_fsm.md R163). -/
theorem execAll_casetSequence (h : s.fatal = false) (b1 b2 b3 b4 : Byte) :
    execAll [.caset, .dwCaset0 b1, .dwCaset1 b2, .dwCaset2 b3, .dwCaset3 b4] s = .next
      { s with colStart := b1 ++ b2, colEnd := b3 ++ b4, shift16 := b3 ++ b4, pstate := .idle, result := .quiet } := by
  simp only [execAll, exec, execCaset, execDwCaset0, execDwCaset1, execDwCaset2, execDwCaset3, unlessFatal_of_not_fatal,
    h, State.arm, State.goto, State.reply, State.shift8, State.loadColStart, State.loadColEnd, shiftByte_shiftByte]

/-- The end of a row window sequence, likewise. -/
theorem execAll_rasetSequence (h : s.fatal = false) (b1 b2 b3 b4 : Byte) :
    execAll [.raset, .dwRaset0 b1, .dwRaset1 b2, .dwRaset2 b3, .dwRaset3 b4] s = .next
      { s with rowStart := b1 ++ b2, rowEnd := b3 ++ b4, shift16 := b3 ++ b4, pstate := .idle, result := .quiet } := by
  simp only [execAll, exec, execRaset, execDwRaset0, execDwRaset1, execDwRaset2, execDwRaset3, unlessFatal_of_not_fatal,
    h, State.arm, State.goto, State.reply, State.shift8, State.loadRowStart, State.loadRowEnd, shiftByte_shiftByte]

/-- Settles O12: the end states of the two sequences, with the fields read as numbers. -/
theorem windowSequenceAssemblesHighByteFirst : Obligations.WindowSequenceAssemblesHighByteFirst :=
  fun _ b1 b2 b3 b4 h =>
    ⟨⟨_, execAll_casetSequence h b1 b2 b3 b4, toNat_append_byte b1 b2, toNat_append_byte b3 b4, rfl, rfl⟩,
      ⟨_, execAll_rasetSequence h b1 b2 b3 b4, toNat_append_byte b1 b2, toNat_append_byte b3 b4, rfl, rfl⟩⟩

end Sys2Proof.Machine
end

