-- ==== Sys2Proof/Proofs/CommandDispatch.lean ====
section
/-! PROOFS. The commands of 40_cmd_dispatcher.md: the flag commands (R121 to R130, R149), the arming commands (R132 to
R147) and the unknown class (R148). -/

namespace Sys2Proof

variable {cfg : Config} {ps : PState} {rs : RdSub}

/-- A write at `OFF_CMD` whose low byte has a row of the command map decodes to that row, in every protocol state (R93,
R120). -/
theorem decode_of_mem_commandTable (hcfg : cfg.wf = true) {w : Word} {i : Instr}
    (h : (paramByte w, i) ∈ commandTable) : decode cfg ps rs (.bus cfg.offCmd true w) = .ok i :=
  (decode_command hcfg w).trans (congrArg Except.ok (decodeCommand_of_mem_commandTable _ h))

/-- A write at `OFF_CMD` whose low byte has no row decodes to the unknown class with that byte (R94, R148). -/
theorem decode_of_notMem_knownOpcodes (hcfg : cfg.wf = true) {w : Word} (h : paramByte w ∉ knownOpcodes) :
    decode cfg ps rs (.bus cfg.offCmd true w) = .ok (.unknownCmd (paramByte w)) :=
  (decode_command hcfg w).trans (congrArg Except.ok ((decodeCommand_eq_unknownCmd_iff _).2 h))

end Sys2Proof

namespace Sys2Proof.Machine

variable {s t : State}

/-- While `fatal = 0` an instruction whose meaning is an effect behind the gate gives the effect's state (R276).
That `f` is the effect and `t` its state is read off the model's definitions. -/
theorem exec_eq_next_of_unlessFatal {i : Instr} {f : State → State} (h : s.fatal = false)
    (hi : exec i s = s.unlessFatal f := by rfl) (ht : f s = t := by rfl) : exec i s = .next t := by
  rw [hi, unlessFatal_of_not_fatal f h, ht]

/-! ### Flag commands -/

/-- Settles O6: no flag command is refused, and each effect is one flag write and the quiet reply. -/
theorem flagCommandsWriteOneFlag : Obligations.FlagCommandsWriteOneFlag := by
  intro s h
  refine ⟨?_, ?_, ?_, ?_, ?_, ?_, ?_, ?_, ?_, ?_⟩ <;> exact exec_eq_next_of_unlessFatal h

/-- Settles O5: `0x29` has its row in the command map, and the effect is one of the ten of O6. -/
theorem displayOnSetsOnlyItsFlag : Obligations.DisplayOnSetsOnlyItsFlag := by
  constructor
  · intro cfg ps rs w hcfg hw
    have hbyte : paramByte w = 0x29 := paramByte_eq_of_mod_eq (w' := 0x29) hw
    have hrow : ((0x29 : Byte), Instr.dispon) ∈ commandTable := by decide
    exact decode_of_mem_commandTable hcfg (hbyte ▸ hrow)
  · intro s h
    obtain ⟨-, -, -, -, hdispon, -⟩ := flagCommandsWriteOneFlag s h
    exact hdispon

/-! ### Arming commands -/

theorem ifFormat18_of_eq (f : State → State) (h : s.controlFormat = format18) : s.ifFormat18 f = f s :=
  if_pos h

theorem ifFormat18_of_ne (f : State → State) (h : s.controlFormat ≠ format18) : s.ifFormat18 f = s.raiseFatal :=
  if_neg h

/-- `RAMRD` is not refused, and then only the format check stands before its effect (R145). -/
theorem exec_ramrd_of_not_fatal (h : s.fatal = false) :
    exec .ramrd s = .next (s.ifFormat18 fun s => (s.cursorToStart.setRdSub .r0).arm .readMem) :=
  exec_eq_next_of_unlessFatal h

/-- Settles O8: `RAMWR` is not refused, and no format check stands before its effect. -/
theorem memoryWriteCommandArms : Obligations.MemoryWriteCommandArms := by
  intro s h
  exact exec_eq_next_of_unlessFatal h

/-- Settles O9: the format check runs the effect or raises the fatal fault, and nothing precedes it. -/
theorem memoryReadCommandArmsOrFaults : Obligations.MemoryReadCommandArmsOrFaults := by
  intro s h
  constructor
  · intro h18
    rw [exec_ramrd_of_not_fatal h, ifFormat18_of_eq _ h18]
    rfl
  · intro h18
    rw [exec_ramrd_of_not_fatal h, ifFormat18_of_ne _ h18]
    rfl

/-- Settles O7: thirteen of the commands only arm; the two memory commands are O8 and O9, with the window start for the
cursor. -/
theorem armingCommandsOverwriteTheState : Obligations.ArmingCommandsOverwriteTheState := by
  intro s h
  obtain ⟨hread, -⟩ := memoryReadCommandArmsOrFaults s h
  refine ⟨?_, ⟨_, _, memoryWriteCommandArms s h⟩, fun h18 => ⟨_, _, hread h18⟩⟩
  intro r hr
  fin_cases hr <;> exact exec_eq_next_of_unlessFatal h

/-! ### Unknown commands -/

/-- Settles O10: the decoder has no row for the byte, and the effect only replies with the diagnostic. -/
theorem unknownCommandIsReportedOnly : Obligations.UnknownCommandIsReportedOnly := by
  constructor
  · intro cfg ps rs w hcfg hw
    rw [← paramByte_eq_ofNat] at hw ⊢
    exact decode_of_notMem_knownOpcodes hcfg hw
  · intro s c h
    exact exec_eq_next_of_unlessFatal h

end Sys2Proof.Machine
end

