-- ==== Sys2Proof/Proofs/ProtocolFsm.lean ====
section
/-! PROOFS. The data accesses of 41_protocol_fsm.md one by one: parameter bytes (R164 to R177), pixel writes (R180,
R181), the reads of the finite sequences (R175, R176) and of `READ_MEM` (R182 to R185), and the unexpected accesses
(R162). -/

namespace Sys2Proof.Machine

variable {s t : State}

/-! ### Parameter bytes -/

/-- `Shift8` keeps the last 16 bits of the field followed by the byte (R163). -/
theorem shiftByte_eq_ofNat (x : Word) (b : Byte) :
    shiftByte x b = BitVec.ofNat 16 (x.toNat * 256 + b.toNat) := by
  have hsum : x.toNat * 256 + b.toNat = x.toNat <<< 8 ||| b.toNat := by
    rw [← Nat.shiftLeft_add_eq_or_of_lt b.isLt, Nat.shiftLeft_eq]
  rw [hsum, BitVec.ofNat_or]
  apply BitVec.eq_of_toNat_eq
  simp [shiftByte]

/-- Settles O11: the protocol state selects the row, and each effect shifts the byte in and loads at most one register
from the shifted field. -/
theorem windowBytesLoadTheWindow : Obligations.WindowBytesLoadTheWindow := by
  constructor
  · intro cfg rs w hcfg r hr
    rw [decode_dataWrite hcfg, ← paramByte_eq_ofNat]
    fin_cases hr <;> rfl
  · rintro s b _ h rfl
    rw [← shiftByte_eq_ofNat]
    refine ⟨?_, ?_, ?_, ?_, ?_, ?_, ?_, ?_⟩ <;> exact exec_eq_next_of_unlessFatal h

theorem madctlMY_eq (b : Byte) : madctlMY b = decide (b.toNat / 128 % 2 = 1) :=
  Nat.testBit_eq_decide_div_mod_eq (i := 7)

theorem madctlMX_eq (b : Byte) : madctlMX b = decide (b.toNat / 64 % 2 = 1) :=
  Nat.testBit_eq_decide_div_mod_eq (i := 6)

theorem madctlMV_eq (b : Byte) : madctlMV b = decide (b.toNat / 32 % 2 = 1) :=
  Nat.testBit_eq_decide_div_mod_eq (i := 5)

theorem colmodInterface_eq (b : Byte) : colmodInterface b = BitVec.ofNat 3 (b.toNat / 16) := by
  rw [colmodInterface, BitVec.extractLsb', Nat.shiftRight_eq_div_pow]

theorem colmodControl_eq (b : Byte) : colmodControl b = BitVec.ofNat 3 b.toNat := rfl

/-- Settles O13: each effect loads its registers and goes to `IDLE`; the bits of the orientation and of the two format
fields are read off the number of the byte. -/
theorem controlBytesLoadTheirRegisters : Obligations.ControlBytesLoadTheirRegisters := by
  intro s b h
  rw [← madctlMY_eq, ← madctlMX_eq, ← madctlMV_eq, ← colmodInterface_eq, ← colmodControl_eq]
  exact ⟨exec_eq_next_of_unlessFatal h, exec_eq_next_of_unlessFatal h, exec_eq_next_of_unlessFatal h⟩

/-! ### Pixel writes -/

/-- A pixel write is not refused while `fatal = 0`. -/
theorem exec_dwWriteMem_of_not_fatal (h : s.fatal = false) (p : Word) :
    exec (.dwWriteMem p) s = .next (s.writePixel p) :=
  exec_eq_next_of_unlessFatal h

theorem exec_dwWriteMemBeats2_of_not_fatal (h : s.fatal = false) (b : Byte) :
    exec (.dwWriteMemBeats2 b) s = .next (s.writeHalf b) :=
  exec_eq_next_of_unlessFatal h

theorem writePixel_of_cursorPosition_some {x y : Nat} (hpos : s.cursorPosition = some (x, y)) (p : Word) :
    s.writePixel p = ((s.fbSet x y (encode565 p)).advanceCursor).reply .stored := by
  simp only [State.writePixel, hpos]

theorem writePixel_of_cursorPosition_none (hpos : s.cursorPosition = none) (p : Word) :
    s.writePixel p = s.advanceCursor.reply .quiet := by
  simp only [State.writePixel, hpos]

theorem writeHalf_of_wrPhase_false (hwr : s.wrPhase = false) (b : Byte) :
    s.writeHalf b = ((s.shift8 b).setWrPhase true).reply .quiet := by
  simp [State.writeHalf, hwr]

theorem writeHalf_of_wrPhase_true (hwr : s.wrPhase = true) (b : Byte) :
    s.writeHalf b = ((s.shift8 b).setWrPhase false).writePixel (shiftByte s.shift16 b) := by
  simp [State.writeHalf, hwr]

/-- A store leaves every other position of the panel as it was (45_framebuffer_memory.md R236). -/
theorem fbGet_fbSet_of_ne {x y x' y' : Nat} (hx : x < s.cfg.W) (hx' : x' < s.cfg.W) (hne : (x', y') ≠ (x, y))
    (c : Cell) : (s.fbSet x y c).fbGet x' y' = s.fbGet x' y' := by
  rw [fbGet_fbSet, if_neg]
  intro hcell
  obtain ⟨rfl, rfl⟩ := cellIndex_inj hx' hx hcell
  exact hne rfl

/-- Settles O15: the pixel write is a store and an advance at a valid position, an advance at an invalid one. -/
theorem pixelWriteStoresOrDrops : Obligations.PixelWriteStoresOrDrops := by
  intro s p h
  rw [exec_dwWriteMem_of_not_fatal h]
  constructor
  · intro x y hpos
    have hx : x < s.cfg.W := (cursorPosition_lt hpos).1
    rw [writePixel_of_cursorPosition_some hpos]
    exact ⟨_, rfl, rfl, (fbGet_fbSet s x y x y _).trans (if_pos rfl),
      fun x' y' hx' hne => fbGet_fbSet_of_ne hx hx' hne _⟩
  · intro hpos
    rw [writePixel_of_cursorPosition_none hpos]
    rfl

/-- Settles O16: the first half only shifts in; the second is the pixel write of the assembled word. -/
theorem halfPixelWritesMakeAPixel : Obligations.HalfPixelWritesMakeAPixel := by
  intro s b h
  rw [exec_dwWriteMemBeats2_of_not_fatal h]
  constructor
  · intro hwr
    rw [← shiftByte_eq_ofNat, writeHalf_of_wrPhase_false hwr]
    rfl
  · rintro hwr _ rfl
    rw [← shiftByte_eq_ofNat, writeHalf_of_wrPhase_true hwr]
    exact ⟨_, rfl, exec_dwWriteMem_of_not_fatal (s := (s.shift8 b).setWrPhase false) h _⟩

/-! ### Unexpected accesses -/

/-- Settles O24: a state that expects no access in that direction has the ignored row, whose effect is the reply. -/
theorem unexpectedDataAccessIsReportedOnly : Obligations.UnexpectedDataAccessIsReportedOnly := by
  constructor
  · intro cfg ps rs w hcfg
    constructor
    · intro hignored
      rw [decode_dataWrite hcfg, decodeDataWrite_of_ignoresWrite hignored]
    · intro hignored
      rw [decode_dataRead hcfg, decodeDataRead_of_ignoresRead hignored]
  · intro s w h
    exact ⟨exec_eq_next_of_unlessFatal h, exec_eq_next_of_unlessFatal h⟩

/-! ### The finite read sequences -/

/-- A byte of the identifier, shifted down and masked. -/
theorem byteReply_extractLsb' (id : BitVec 24) (n : Nat) :
    byteReply (id.extractLsb' n 8) = ((id >>> n) &&& 0xFF#24).setWidth 16 := by
  apply BitVec.eq_of_toNat_eq
  have hmask : ((id >>> n) &&& 0xFF#24).toNat = id.toNat >>> n % 2 ^ 8 := Nat.and_two_pow_sub_one_eq_mod _ 8
  rw [byteReply, BitVec.toNat_setWidth, BitVec.toNat_setWidth, hmask, BitVec.extractLsb'_toNat]

/-- What an instruction behind the gate does to the protocol state while `fatal = 0`. That `f` is its effect, and
that the effect goes to `ps`, is read off the model's definitions. -/
theorem exec_pstate_of_unlessFatal {i : Instr} {f : State → State} {ps : PState} (h : s.fatal = false)
    (hx : exec i s = .next t) (hi : exec i s = s.unlessFatal f := by rfl) (hps : (f s).pstate = ps := by rfl) :
    t.pstate = ps := by
  rw [hi, unlessFatal_of_not_fatal f h] at hx
  cases hx
  exact hps

/-- Settles O18: the protocol state selects the row, each read replies with its byte of the identifier, and neither an
ignored read nor a flag or unknown command goes anywhere. -/
theorem displayIdReadsReturnItsBytes : Obligations.DisplayIdReadsReturnItsBytes := by
  refine ⟨?_, ?_, ?_, ?_⟩
  · intro cfg rs hcfg r hr w
    rw [decode_dataRead hcfg]
    fin_cases hr <;> rfl
  · intro s h
    have hlow : byteReply (s.cfg.displayId.extractLsb' 0 8) = (s.cfg.displayId &&& 0xFF#24).setWidth 16 :=
      byteReply_extractLsb' s.cfg.displayId 0
    rw [← byteReply_extractLsb', ← byteReply_extractLsb', ← hlow]
    refine ⟨?_, ?_, ?_, ?_⟩ <;> exact exec_eq_next_of_unlessFatal h
  · intro s h hidle
    have hcode : s.pstate.code = 0 := by rw [hidle]; rfl
    rw [← hcode]
    exact exec_eq_next_of_unlessFatal h
  · intro s c h i hi
    obtain ⟨t, ht⟩ := exists_exec_eq_next i s
    refine ⟨t, ht, ?_⟩
    fin_cases hi <;> exact exec_pstate_of_unlessFatal h ht

/-- Settles O19: each effect draws one byte and goes one step on. -/
theorem openReadsAdvanceWhateverTheByte : Obligations.OpenReadsAdvanceWhateverTheByte := by
  intro s h r hr
  refine ⟨Config.rdResp s.draws, ?_⟩
  fin_cases hr <;> exact exec_eq_next_of_unlessFatal h

/-! ### `READ_MEM` -/

/-- While `fatal = 0` only the format check stands before a read in `READ_MEM` (R182). -/
theorem exec_drReadMem0_of_not_fatal (h : s.fatal = false) :
    exec .drReadMem0 s = .next (s.ifFormat18 State.readStep0) :=
  exec_eq_next_of_unlessFatal h

theorem exec_drReadMem1_of_not_fatal (h : s.fatal = false) :
    exec .drReadMem1 s = .next (s.ifFormat18 State.readStep1) :=
  exec_eq_next_of_unlessFatal h

theorem exec_drReadMem2_of_not_fatal (h : s.fatal = false) :
    exec .drReadMem2 s = .next (s.ifFormat18 State.readStep2) :=
  exec_eq_next_of_unlessFatal h

/-- Settles O21: the format check raises the fatal fault, whichever sub-step stands behind it. -/
theorem memoryReadInOtherFormatIsFatal : Obligations.MemoryReadInOtherFormatIsFatal := by
  intro s h h18 i hi
  fin_cases hi
  · exact (exec_drReadMem0_of_not_fatal h).trans (congrArg _ (ifFormat18_of_ne _ h18))
  · exact (exec_drReadMem1_of_not_fatal h).trans (congrArg _ (ifFormat18_of_ne _ h18))
  · exact (exec_drReadMem2_of_not_fatal h).trans (congrArg _ (ifFormat18_of_ne _ h18))

/-- Two bytes put together, as a number. -/
theorem append_byte_eq_ofNat (a b : Byte) : (a ++ b : Word) = BitVec.ofNat 16 (a.toNat * 256 + b.toNat) := by
  rw [← toNat_append_byte, BitVec.ofNat_toNat, BitVec.setWidth_eq]

/-- The lanes of a cell as numbers (44_pixel_codec.md R223). -/
theorem laneR_toNat (c : Cell) : (laneR c).toNat = c.toNat / 65536 % 256 := by
  simp [laneR, BitVec.extractLsb'_toNat, Nat.shiftRight_eq_div_pow]

theorem laneG_toNat (c : Cell) : (laneG c).toNat = c.toNat / 256 % 256 := by
  simp [laneG, BitVec.extractLsb'_toNat, Nat.shiftRight_eq_div_pow]

theorem laneB_toNat (c : Cell) : (laneB c).toNat = c.toNat % 256 := by
  simp [laneB, BitVec.extractLsb'_toNat]

/-- Settles O20: the format check passes, and each sub-step replies with two lanes and moves the cursor as it is
defined to. -/
theorem memoryReadSubSteps : Obligations.MemoryReadSubSteps := by
  intro s h h18
  simp only [← laneR_toNat, ← laneG_toNat, ← laneB_toNat, ← append_byte_eq_ofNat]
  rw [exec_drReadMem0_of_not_fatal h, exec_drReadMem1_of_not_fatal h, exec_drReadMem2_of_not_fatal h,
    ifFormat18_of_eq _ h18, ifFormat18_of_eq _ h18, ifFormat18_of_eq _ h18]
  exact ⟨rfl, rfl, rfl⟩

end Sys2Proof.Machine
end

