-- ==== Sys2Proof/Proofs/ProtocolStateMoves.lean ====
section
/-! PROOFS. How the protocol state moves, complete (41_protocol_fsm.md R178): what each class of instructions does to
it, then the step. -/

namespace Sys2Proof.Machine

variable {s t : State}

/-! ### The shared operations -/

theorem writePixel_pstate (s : State) (p : Word) : (s.writePixel p).pstate = s.pstate := by
  obtain ⟨x, y, -, h⟩ | ⟨-, h⟩ := writePixel_cases s p <;> simp [h]

theorem writeHalf_pstate (s : State) (b : Byte) : (s.writeHalf b).pstate = s.pstate := by
  obtain ⟨-, h⟩ | ⟨-, h⟩ := writeHalf_cases s b <;> simp [h, writePixel_pstate]

/-- Behind the format check an effect that goes nowhere still goes nowhere: so does the fatal fault (60_exceptions.md
R275). -/
theorem pstate_of_exec_eq_ifFormat18 {i : Instr} {f : State → State} (hi : exec i s = .next (s.ifFormat18 f))
    (hf : (f s).pstate = s.pstate) (hx : exec i s = .next t) : t.pstate = s.pstate := by
  obtain rfl := Host.Outcome.next.inj (hi.symm.trans hx)
  obtain ⟨-, h⟩ | ⟨-, h⟩ := ifFormat18_cases s f
  · rw [h, hf]
  · rw [h, State.raiseFatal_pstate]

/-! ### Commands and signals -/

/-- An arming command puts the protocol state at the first sub-state of its sequence, `RAMRD` in the 18-bit format
(R178 (1)). -/
theorem exec_pstate_of_armTarget {i : Instr} {ps : PState} (hi : armTarget i = some ps)
    (h18 : i = .ramrd → s.controlFormat = format18) (h : s.fatal = false) (hx : exec i s = .next t) :
    t.pstate = ps := by
  cases i <;> cases hi
  case ramrd =>
    rw [exec_ramrd_of_not_fatal h, ifFormat18_of_eq _ (h18 rfl)] at hx
    cases hx
    rfl
  all_goals exact exec_pstate_of_unlessFatal h hx

/-- The instructions that reset the block. -/
def resetInstrs : List Instr := [.swreset, .extReset, .powerOn]

/-- A reset goes to `IDLE` (R178 (2)). -/
theorem exec_pstate_of_mem_resetInstrs {i : Instr} (hi : i ∈ resetInstrs) (h : s.fatal = false)
    (hx : exec i s = .next t) : t.pstate = .idle := by
  fin_cases hi
  · exact exec_pstate_of_unlessFatal h hx
  · exact exec_pstate_of_unlessFatal h hx
  · cases hx
    rfl

/-- A flag command goes nowhere (R149). -/
theorem exec_pstate_of_mem_flagRows {r : Byte × Instr} (hr : r ∈ flagRows) (h : s.fatal = false)
    (hx : exec r.2 s = .next t) : t.pstate = s.pstate := by
  fin_cases hr <;> exact exec_pstate_of_unlessFatal h hx

/-- Class b of the command map is the arming commands. -/
theorem isSome_armTarget_of_mem_rows : ∀ r ∈ readRows ++ armRows, (armTarget r.2).isSome = true := by decide

/-- A command that moves the protocol state is an arming or a reset command (R178 (5)). -/
theorem arms_or_resets_of_pstate_ne {c : Byte} (h : s.fatal = false) (hx : exec (decodeCommand c) s = .next t)
    (hne : t.pstate ≠ s.pstate) :
    (∃ ps, armTarget (decodeCommand c) = some ps) ∨ decodeCommand c ∈ resetInstrs := by
  rcases decodeCommand_cases c with hrow | hunknown
  · rw [commandTable, List.mem_append, List.append_assoc, List.mem_append] at hrow
    rcases hrow with (hflag | harm) | hreset
    · exact absurd (exec_pstate_of_mem_flagRows hflag h hx) hne
    · exact .inl (Option.isSome_iff_exists.1 (isSome_armTarget_of_mem_rows _ harm))
    · obtain ⟨-, hswreset⟩ := Prod.mk.inj (List.mem_singleton.1 hreset)
      exact .inr (by simp [hswreset, resetInstrs])
  · rw [hunknown] at hx
    exact absurd (exec_pstate_of_unlessFatal h hx) hne

/-! ### Data accesses -/

/-- A consumed data write moves its sequence one step and leaves `WRITE_MEM` (R178 (3), (4)). -/
theorem exec_decodeDataWrite_pstate {beats : PixelBeats} {w : Word} (hconsumed : ignoresWrite s.pstate = false)
    (h : s.fatal = false) (hx : exec (decodeDataWrite beats w s.pstate) s = .next t) :
    t.pstate = stateAfterAccess s.pstate := by
  cases hps : s.pstate with rw [hps] at hx hconsumed
  | caset k | raset k => cases k <;> exact exec_pstate_of_unlessFatal h hx
  | madctl0 | colmod0 | gamset0 => exact exec_pstate_of_unlessFatal h hx
  | writeMem =>
    cases beats with
    | one => exact exec_pstate_of_unlessFatal (f := (·.writePixel w)) h hx rfl ((writePixel_pstate s w).trans hps)
    | two =>
      exact exec_pstate_of_unlessFatal (f := (·.writeHalf (paramByte w))) h hx rfl ((writeHalf_pstate s _).trans hps)
  | idle | readMem | read => cases hconsumed

/-- A consumed data read likewise; its bulk state is `READ_MEM`. -/
theorem exec_decodeDataRead_pstate {rs : RdSub} (hconsumed : ignoresRead s.pstate = false)
    (h : s.fatal = false) (hx : exec (decodeDataRead rs s.pstate) s = .next t) :
    t.pstate = stateAfterAccess s.pstate := by
  cases hps : s.pstate with rw [hps] at hx hconsumed
  | read q k => cases q <;> cases k <;> exact exec_pstate_of_unlessFatal h hx
  | readMem =>
    cases rs with
    | r0 => exact (pstate_of_exec_eq_ifFormat18 (exec_drReadMem0_of_not_fatal h) rfl hx).trans hps
    | r1 => exact (pstate_of_exec_eq_ifFormat18 (exec_drReadMem1_of_not_fatal h) rfl hx).trans hps
    | r2 => exact (pstate_of_exec_eq_ifFormat18 (exec_drReadMem2_of_not_fatal h) rfl hx).trans hps
  | idle | writeMem | caset | raset | madctl0 | colmod0 | gamset0 => cases hconsumed

/-- A data access that is not consumed goes nowhere (R162). -/
theorem exec_ignored_pstate (h : s.fatal = false) {i : Instr} (hi : (∃ w, i = .dwIgnored w) ∨ i = .drIgnored)
    (hx : exec i s = .next t) : t.pstate = s.pstate := by
  obtain ⟨w, rfl⟩ | rfl := hi <;> exact exec_pstate_of_unlessFatal h hx

/-- Where a data access leaves the protocol state: one step on if it is consumed, and where it was if not. -/
theorem exec_pstate_of_dataAccess {we : Bool} {w : Word} {i : Instr} (hcfg : s.cfg.wf = true) (h : s.fatal = false)
    (hd : decode s.cfg s.pstate s.rdSub (.bus s.cfg.offData we w) = .ok i) (hx : exec i s = .next t) :
    t.pstate = if accessConsumed s.pstate we then stateAfterAccess s.pstate else s.pstate := by
  cases we with
  | true =>
    obtain rfl := Except.ok.inj ((decode_dataWrite hcfg w).symm.trans hd)
    cases hign : ignoresWrite s.pstate with
    | false => simpa [accessConsumed, hign] using exec_decodeDataWrite_pstate hign h hx
    | true =>
      have hi := decodeDataWrite_of_ignoresWrite hign s.cfg.pixelBeats w
      simpa [accessConsumed, hign] using exec_ignored_pstate h (.inl ⟨w, hi⟩) hx
  | false =>
    obtain rfl := Except.ok.inj ((decode_dataRead hcfg w).symm.trans hd)
    cases hign : ignoresRead s.pstate with
    | false => simpa [accessConsumed, hign] using exec_decodeDataRead_pstate hign h hx
    | true => simpa [accessConsumed, hign] using exec_ignored_pstate h (.inr (decodeDataRead_of_ignoresRead hign)) hx

/-! ### The step -/

/-- The operations that move the protocol state, complete (R178 (5)). -/
theorem moves_of_pstate_ne {op : Operation} {i : Instr} (hcfg : s.cfg.wf = true) (h : s.fatal = false)
    (hd : decode s.cfg s.pstate s.rdSub op = .ok i) (hx : exec i s = .next t) (hne : t.pstate ≠ s.pstate) :
    (∃ ps, armTarget i = some ps) ∨ i ∈ resetInstrs ∨
      ∃ we w, op = .bus s.cfg.offData we w ∧ accessConsumed s.pstate we = true := by
  have consumed (we : Bool) (w : Word) (hop : op = .bus s.cfg.offData we w) : accessConsumed s.pstate we = true := by
    subst hop
    by_contra hnot
    exact hne ((exec_pstate_of_dataAccess hcfg h hd hx).trans (if_neg hnot))
  rcases decode_cases hd with ⟨w, -, rfl⟩ | ⟨w, hop, -⟩ | ⟨w, hop, -⟩ | ⟨off, we, w, -, -, -, -, rfl⟩ |
    ⟨-, rfl⟩ | ⟨-, rfl⟩ | ⟨-, rfl⟩
  · exact (arms_or_resets_of_pstate_ne h hx hne).imp id .inl
  · exact .inr (.inr ⟨true, w, hop, consumed true w hop⟩)
  · exact .inr (.inr ⟨false, w, hop, consumed false w hop⟩)
  · exact absurd (exec_pstate_of_unlessFatal h hx) hne
  · exact .inr (.inl (by simp [resetInstrs]))
  · exact .inr (.inl (by simp [resetInstrs]))
  · exact absurd (exec_pstate_of_unlessFatal h hx) hne

/-- Settles O38: the step executes the decoded operation, and each clause is what the execution of its class does. -/
theorem protocolStateMovesAsStated : Obligations.ProtocolStateMovesAsStated := by
  intro s t op rest i hcfg h hp hd hstep
  have hx : exec i { s with pending := rest } = .next t := (step_of_decode hp hd).symm.trans hstep
  refine ⟨fun ps hi h18 => exec_pstate_of_armTarget (s := { s with pending := rest }) hi h18 h hx,
    fun hi => exec_pstate_of_mem_resetInstrs (s := { s with pending := rest }) hi h hx, ?_,
    moves_of_pstate_ne (s := { s with pending := rest }) hcfg h hd hx⟩
  rintro we w rfl hconsumed
  exact (exec_pstate_of_dataAccess (s := { s with pending := rest }) hcfg h hd hx).trans (if_pos hconsumed)

end Sys2Proof.Machine
end

