-- ==== Sys2Proof/Proofs/CursorWalk.lean ====
section
/-! PROOFS. The walk of the cursor through its window (42_address_window.md R201 to R204): one pixel step, and any
number of them from the window start. -/

namespace Sys2Proof.Machine

/-! ### One pixel step -/

theorem nextCol_of_end_lt {e c : Word} (h : e.toNat < c.toNat + 1) (a : Word) : nextCol a e c = a :=
  if_pos h

theorem nextCol_toNat_of_le_end {e c : Word} (h : c.toNat + 1 ≤ e.toNat) (a : Word) :
    (nextCol a e c).toNat = c.toNat + 1 := by
  rw [nextCol_toNat, if_neg h.not_gt]

/-- Where the column goes back to its start the row takes the step a column takes (R201). -/
theorem nextRow_of_end_lt {ce c : Word} (h : ce.toNat < c.toNat + 1) (a e r : Word) :
    nextRow ce a e c r = nextCol a e r :=
  if_pos h

theorem nextRow_of_le_end {ce c : Word} (h : c.toNat + 1 ≤ ce.toNat) (a e r : Word) : nextRow ce a e c r = r :=
  if_neg h.not_gt

/-! ### The walk along one axis -/

/-- How many positions the walk visits between a start and an end: `e - a + 1` in a proper window, and 1 in an inverted
one, where the difference is cut off at 0 (R204). -/
def axisLength (a e : Word) : Nat := e.toNat - a.toNat + 1

theorem axisLength_of_lt {a e : Word} (h : e.toNat < a.toNat) : axisLength a e = 1 := by
  rw [axisLength, Nat.sub_eq_zero_of_le h.le]

/-- The walk goes back to its start after every whole round. -/
theorem end_lt_iff_axisLength_dvd {a e c : Word} {k : Nat} (hc : c.toNat = a.toNat + k % axisLength a e) :
    e.toNat < c.toNat + 1 ↔ axisLength a e ∣ k + 1 := by
  have hround : axisLength a e ∣ k + 1 ↔ k % axisLength a e = e.toNat - a.toNat := by
    rw [Nat.dvd_iff_mod_eq_zero, axisLength, Nat.succ_mod_succ_eq_zero_iff]
  have hlt : k % axisLength a e < e.toNat - a.toNat + 1 := Nat.mod_lt k (Nat.succ_pos _)
  rw [hround]
  omega

/-- The step from the position after `k` steps is to the position after `k + 1`. -/
theorem nextCol_toNat_of_walk {a e c : Word} {k : Nat} (hc : c.toNat = a.toNat + k % axisLength a e) :
    (nextCol a e c).toNat = a.toNat + (k + 1) % axisLength a e := by
  by_cases h : e.toNat < c.toNat + 1
  · rw [nextCol_of_end_lt h, Nat.mod_eq_zero_of_dvd ((end_lt_iff_axisLength_dvd hc).1 h), Nat.add_zero]
  · have hlt : k % axisLength a e + 1 < axisLength a e := by
      unfold axisLength at hc ⊢
      omega
    rw [nextCol_toNat_of_le_end (not_lt.1 h), hc, ← Nat.mod_add_mod, Nat.mod_eq_of_lt hlt, Nat.add_assoc]

/-! ### The walk through the window -/

/-- From the window start, the column after `k` pixel steps counts them modulo the row length, and the row counts the
whole rows modulo the column length, proper window or not (R203, R204; decision D18). -/
theorem iterate_advanceCursor_cursorToStart (s : State) (k : Nat) :
    (State.advanceCursor^[k] s.cursorToStart).cursorCol.toNat =
      s.colStart.toNat + k % axisLength s.colStart s.colEnd ∧
    (State.advanceCursor^[k] s.cursorToStart).cursorRow.toNat =
      s.rowStart.toNat + k / axisLength s.colStart s.colEnd % axisLength s.rowStart s.rowEnd := by
  induction k with
  | zero => simp
  | succ k ih =>
    obtain ⟨hcol, hrow⟩ := ih
    obtain ⟨hcs, hce, hrs, hre⟩ := iterate_advanceCursor_window s.cursorToStart k
    have hend := end_lt_iff_axisLength_dvd hcol
    simp only [Function.iterate_succ_apply', State.advanceCursor_cursorCol, State.advanceCursor_cursorRow,
      hcs, hce, hrs, hre, State.cursorToStart_colStart, State.cursorToStart_colEnd, State.cursorToStart_rowStart,
      State.cursorToStart_rowEnd]
    refine ⟨nextCol_toNat_of_walk hcol, ?_⟩
    rw [Nat.succ_div]
    split
    next hdvd => rw [nextRow_of_end_lt (hend.2 hdvd), nextCol_toNat_of_walk hrow]
    next hdvd => rw [nextRow_of_le_end (not_lt.1 (mt hend.1 hdvd)), hrow, Nat.add_zero]

/-- Settles O26: the closed form of the walk, its lengths those of a proper window. -/
theorem walkIsRasterOrderForEver : Obligations.WalkIsRasterOrderForEver :=
  fun s k _ _ => iterate_advanceCursor_cursorToStart s k

/-- Settles O27: the closed form of the walk, with length 1 on each inverted axis. -/
theorem invertedWindowWalksOneColumn : Obligations.InvertedWindowWalksOneColumn := by
  intro s k
  obtain ⟨hcol, hrow⟩ := iterate_advanceCursor_cursorToStart s k
  refine ⟨fun hcols _ => ?_, fun _ hrows => ?_, fun hcols hrows => ?_⟩
  · rw [axisLength_of_lt hcols, Nat.mod_one] at hcol
    rw [axisLength_of_lt hcols, Nat.div_one] at hrow
    exact ⟨BitVec.eq_of_toNat_eq hcol, hrow⟩
  · rw [axisLength_of_lt hrows, Nat.mod_one] at hrow
    exact ⟨hcol, BitVec.eq_of_toNat_eq hrow⟩
  · rw [axisLength_of_lt hcols, Nat.mod_one] at hcol
    rw [axisLength_of_lt hrows, Nat.mod_one] at hrow
    exact ⟨BitVec.eq_of_toNat_eq hcol, BitVec.eq_of_toNat_eq hrow⟩

end Sys2Proof.Machine
end

