-- ==== Sys2Proof/Proofs/CursorMoves.lean ====
section
/-! PROOFS. What each instruction does to the cursor, complete (42_address_window.md R201, R202), and that in a bulk
state the cursor stays in the window (R204). -/

namespace Sys2Proof.Machine

variable {s t : State} {i : Instr} {f : State → State}

/-! ### The cursor kept, or moved as the walk moves it -/

/-- The state is one of the two in which pixels are transferred. -/
def State.InBulk (s : State) : Prop := s.pstate = .writeMem ∨ s.pstate = .readMem

/-- `t` has the cursor of `s`, and a bulk state of `t` is one of `s` with the same window. -/
structure KeepsWalk (s t : State) : Prop where
  cursorCol : t.cursorCol = s.cursorCol
  cursorRow : t.cursorRow = s.cursorRow
  bulk : t.InBulk → s.InBulk ∧
    t.colStart = s.colStart ∧ t.colEnd = s.colEnd ∧ t.rowStart = s.rowStart ∧ t.rowEnd = s.rowEnd

namespace KeepsWalk

/-- An update that moves neither the protocol state nor the window. -/
theorem of_pstate_eq (hcol : t.cursorCol = s.cursorCol) (hrow : t.cursorRow = s.cursorRow)
    (hps : t.pstate = s.pstate) (hcs : t.colStart = s.colStart) (hce : t.colEnd = s.colEnd)
    (hrs : t.rowStart = s.rowStart) (hre : t.rowEnd = s.rowEnd) : KeepsWalk s t :=
  ⟨hcol, hrow, fun h => ⟨by rwa [State.InBulk, hps] at h, hcs, hce, hrs, hre⟩⟩

/-- An update that goes to a state in which no pixel is transferred. -/
theorem of_not_inBulk (hcol : t.cursorCol = s.cursorCol) (hrow : t.cursorRow = s.cursorRow)
    (hbulk : ¬ t.InBulk) : KeepsWalk s t :=
  ⟨hcol, hrow, fun h => absurd h hbulk⟩

theorem refuse (s : State) : KeepsWalk s s.refuse := of_pstate_eq rfl rfl rfl rfl rfl rfl rfl

theorem raiseFatal (s : State) : KeepsWalk s s.raiseFatal := of_pstate_eq rfl rfl rfl rfl rfl rfl rfl

/-- The gate before an effect adds the refusal only. -/
theorem of_unlessFatal (hf : KeepsWalk s (f s)) (h : s.unlessFatal f = .next t) : KeepsWalk s t := by
  obtain ⟨-, rfl⟩ | ⟨-, rfl⟩ := unlessFatal_cases h
  · exact refuse s
  · exact hf

/-- The format check before an effect adds the fatal fault only. -/
theorem of_ifFormat18 (hf : s.controlFormat = format18 → KeepsWalk s (f s)) : KeepsWalk s (s.ifFormat18 f) := by
  obtain ⟨h18, h⟩ | ⟨-, h⟩ := ifFormat18_cases s f
  · exact h ▸ hf h18
  · exact h ▸ raiseFatal s

end KeepsWalk

/-! ### The instructions that move the cursor -/

/-- The instruction is a pixel step in `s`: a whole pixel write, the second half of a pixel, or a sub-step of a memory
read that goes on to the next pixel (41_protocol_fsm.md R180, R181, R184, R185). -/
def State.AdvancedBy (s : State) (i : Instr) : Prop :=
  (∃ p, i = .dwWriteMem p) ∨ ((∃ b, i = .dwWriteMemBeats2 b) ∧ s.wrPhase = true) ∨
    (i ∈ [Instr.drReadMem1, Instr.drReadMem2] ∧ s.controlFormat = format18)

/-- The instruction is a memory command that is carried out in `s` (40_cmd_dispatcher.md R144, R145). -/
def State.RestartedBy (s : State) (i : Instr) : Prop :=
  i = .ramwr ∨ (i = .ramrd ∧ s.controlFormat = format18)

/-- A pixel write is a pixel step that may store, and reports no diagnostic. -/
theorem writePixel_eq_advanceCursor (s : State) (p : Word) : ∃ fb dirty r,
    s.writePixel p = { s.advanceCursor with fb := fb, dirty := dirty, result := r } ∧ r.diag = .none := by
  obtain ⟨x, y, -, h⟩ | ⟨-, h⟩ := writePixel_cases s p <;> exact ⟨_, _, _, h, rfl⟩

/-- A pixel step advances the cursor once, raises nothing and reports nothing. -/
theorem exec_of_advancedBy (h : s.fatal = false) (hi : s.AdvancedBy i) (hx : exec i s = .next t) :
    KeepsWalk s.advanceCursor t ∧ t.fatal = false ∧ t.result.diag = .none := by
  obtain ⟨p, rfl⟩ | ⟨⟨b, rfl⟩, hwr⟩ | ⟨hmem, h18⟩ := hi
  · rw [exec_dwWriteMem_of_not_fatal h] at hx
    obtain ⟨fb, dirty, r, hw, hr⟩ := writePixel_eq_advanceCursor s p
    obtain rfl := hw.symm.trans (Host.Outcome.next.inj hx)
    exact ⟨.of_pstate_eq rfl rfl rfl rfl rfl rfl rfl, h, hr⟩
  · rw [exec_dwWriteMemBeats2_of_not_fatal h, writeHalf_of_wrPhase_true hwr] at hx
    obtain ⟨fb, dirty, r, hw, hr⟩ := writePixel_eq_advanceCursor ((s.shift8 b).setWrPhase false) _
    obtain rfl := hw.symm.trans (Host.Outcome.next.inj hx)
    exact ⟨.of_pstate_eq rfl rfl rfl rfl rfl rfl rfl, h, hr⟩
  · fin_cases hmem
    · rw [exec_drReadMem1_of_not_fatal h, ifFormat18_of_eq _ h18] at hx
      cases hx
      exact ⟨.of_pstate_eq rfl rfl rfl rfl rfl rfl rfl, h, rfl⟩
    · rw [exec_drReadMem2_of_not_fatal h, ifFormat18_of_eq _ h18] at hx
      cases hx
      exact ⟨.of_pstate_eq rfl rfl rfl rfl rfl rfl rfl, h, rfl⟩

/-- A memory command that is carried out puts the cursor at the window start and keeps the window start (R202). -/
theorem exec_of_restartedBy (h : s.fatal = false) (hi : s.RestartedBy i) (hx : exec i s = .next t) :
    t.cursorCol = s.colStart ∧ t.cursorRow = s.rowStart ∧ t.colStart = s.colStart ∧ t.rowStart = s.rowStart := by
  obtain rfl | ⟨rfl, h18⟩ := hi
  · rw [memoryWriteCommandArms s h] at hx
    cases hx
    exact ⟨rfl, rfl, rfl, rfl⟩
  · rw [(memoryReadCommandArmsOrFaults s h).1 h18] at hx
    cases hx
    exact ⟨rfl, rfl, rfl, rfl⟩

/-- A reset leaves the cursor at the start of the window it sets (70_reset_and_hazards.md R301, R303). -/
theorem exec_cursor_of_mem_resetInstrs (h : s.fatal = false) (hi : i ∈ resetInstrs) (hx : exec i s = .next t) :
    t.cursorCol = t.colStart ∧ t.cursorRow = t.rowStart ∧ t.colStart = 0 ∧ t.rowStart = 0 := by
  have effect : t = s.resetRegisters.reply .quiet ∨ t = s.powerOnReset := by
    fin_cases hi
    · exact .inl (Host.Outcome.next.inj (hx.symm.trans (exec_eq_next_of_unlessFatal h)))
    · exact .inl (Host.Outcome.next.inj (hx.symm.trans (exec_eq_next_of_unlessFatal h)))
    · exact .inr (Host.Outcome.next.inj hx.symm)
  obtain rfl | rfl := effect <;> exact ⟨rfl, rfl, rfl, rfl⟩

/-- Every other instruction leaves the cursor alone, and loads the window only on its way out of the bulk states. -/
theorem exec_keepsWalk (hadv : ¬ s.AdvancedBy i) (hstart : ¬ s.RestartedBy i) (hreset : i ∉ resetInstrs)
    (hx : exec i s = .next t) : KeepsWalk s t := by
  cases i <;> dsimp only [exec] at hx
  case dwWriteMem p => exact absurd (.inl ⟨p, rfl⟩) hadv
  case ramwr => exact absurd (.inl rfl) hstart
  case swreset | extReset | powerOn => simp [resetInstrs] at hreset
  case dwWriteMemBeats2 b =>
    have hwr : s.wrPhase = false := Bool.eq_false_iff.2 fun hwr => hadv (.inr (.inl ⟨⟨b, rfl⟩, hwr⟩))
    refine .of_unlessFatal (f := (·.writeHalf b)) ?_ hx
    rw [writeHalf_of_wrPhase_false hwr]
    exact .of_pstate_eq rfl rfl rfl rfl rfl rfl rfl
  case ramrd => exact .of_unlessFatal (.of_ifFormat18 fun h18 => absurd (.inr ⟨rfl, h18⟩) hstart) hx
  case drReadMem1 | drReadMem2 =>
    exact .of_unlessFatal (.of_ifFormat18 fun h18 => absurd (.inr (.inr ⟨by simp, h18⟩)) hadv) hx
  case drReadMem0 => exact .of_unlessFatal (.of_ifFormat18 fun _ => .of_pstate_eq rfl rfl rfl rfl rfl rfl rfl) hx
  case slpin | slpout | invoff | invon | dispoff | dispon | teoff | teon | idmoff | idmon | unknownCmd |
      dwIgnored | drIgnored | unmapped | paint =>
    exact .of_unlessFatal (.of_pstate_eq rfl rfl rfl rfl rfl rfl rfl) hx
  -- what remains arms a sequence or moves one on, and goes to a fixed state that is not a bulk state
  all_goals exact .of_unlessFatal (.of_not_inBulk rfl rfl (by simp [State.InBulk, nextRead])) hx

/-- Settles O25: the pixel step by the comparison with each end, then the four classes of instructions. -/
theorem cursorMovesAsStated : Obligations.CursorMovesAsStated := by
  refine ⟨fun s => ⟨rfl, fun hcol => ⟨nextCol_of_end_lt hcol _, fun hrow => ?_, fun hrow => ?_⟩,
    fun hcol => ⟨nextCol_toNat_of_le_end hcol _, nextRow_of_le_end hcol _ _ _⟩⟩, ?_⟩
  · exact (nextRow_of_end_lt hcol _ _ _).trans (nextCol_of_end_lt hrow _)
  · rw [State.advanceCursor_cursorRow, nextRow_of_end_lt hcol, nextCol_toNat_of_le_end hrow]
  · intro i s t h hx
    refine ⟨fun hadv => ?_, fun hstart => ?_, fun hreset => exec_cursor_of_mem_resetInstrs h hreset hx,
      fun hadv hstart hreset => ?_⟩
    · obtain ⟨hwalk, hfatal, hdiag⟩ := exec_of_advancedBy h hadv hx
      exact ⟨hwalk.cursorCol, hwalk.cursorRow, hfatal, hdiag⟩
    · obtain ⟨hcol, hrow, -, -⟩ := exec_of_restartedBy h hstart hx
      exact ⟨hcol, hrow⟩
    · have hwalk := exec_keepsWalk hadv hstart hreset hx
      exact ⟨hwalk.cursorCol, hwalk.cursorRow⟩

/-! ### The cursor in the window -/

/-- The start of a window axis is in it, or is the one position of an inverted one. -/
theorem inWindow_start (a e : Word) : inWindow a e a :=
  ⟨fun h => ⟨le_rfl, h⟩, fun _ => rfl⟩

/-- A step along an axis stays in the window: it goes on within a proper one, and back to the start of an inverted
one. -/
theorem inWindow_nextCol {a e c : Word} (h : inWindow a e c) : inWindow a e (nextCol a e c) := by
  obtain ⟨hproper, hinverted⟩ := h
  by_cases hend : e.toNat < c.toNat + 1
  · rw [nextCol_of_end_lt hend]
    exact inWindow_start a e
  · have hnext : (nextCol a e c).toNat = c.toNat + 1 := nextCol_toNat_of_le_end (not_lt.1 hend) a
    refine ⟨fun hle => ?_, fun hlt => ?_⟩
    · have hbounds := hproper hle
      omega
    · have hc := hinverted hlt
      subst hc
      omega

theorem inWindow_nextRow {a e r : Word} (h : inWindow a e r) (ce c : Word) : inWindow a e (nextRow ce a e c r) := by
  by_cases hend : ce.toNat < c.toNat + 1
  · rw [nextRow_of_end_lt hend]
    exact inWindow_nextCol h
  · rwa [nextRow_of_le_end (not_lt.1 hend)]

theorem bulkCursorInWindow_of_atStart (hcol : t.cursorCol = t.colStart) (hrow : t.cursorRow = t.rowStart) :
    bulkCursorInWindow t :=
  fun _ => ⟨hcol ▸ inWindow_start _ _, hrow ▸ inWindow_start _ _⟩

theorem bulkCursorInWindow_advanceCursor (h : bulkCursorInWindow s) : bulkCursorInWindow s.advanceCursor := by
  intro hbulk
  obtain ⟨hcol, hrow⟩ := h hbulk
  exact ⟨inWindow_nextCol hcol, inWindow_nextRow hrow _ _⟩

theorem KeepsWalk.bulkCursorInWindow (hw : KeepsWalk s t) (h : bulkCursorInWindow s) : bulkCursorInWindow t := by
  intro hbulk
  obtain ⟨hbulk', hcs, hce, hrs, hre⟩ := hw.bulk hbulk
  rw [hcs, hce, hrs, hre, hw.cursorCol, hw.cursorRow]
  exact h hbulk'

/-- While `fatal = 1` everything but `POWER_ON` is refused (60_exceptions.md R276). -/
theorem exec_of_fatal (h : s.fatal = true) (hi : i ≠ .powerOn) : exec i s = .next s.refuse := by
  cases i <;> dsimp only [exec]
  case powerOn => exact absurd rfl hi
  all_goals exact unlessFatal_of_fatal _ h

/-- Every instruction keeps the cursor of a bulk state in the window. -/
theorem exec_bulkCursorInWindow (hs : bulkCursorInWindow s) (hx : exec i s = .next t) : bulkCursorInWindow t := by
  cases h : s.fatal with
  | true =>
    by_cases hi : i = .powerOn
    · subst hi
      cases hx
      exact bulkCursorInWindow_of_atStart rfl rfl
    · obtain rfl := Host.Outcome.next.inj ((exec_of_fatal h hi).symm.trans hx)
      exact (KeepsWalk.refuse s).bulkCursorInWindow hs
  | false =>
    by_cases hadv : s.AdvancedBy i
    · obtain ⟨hwalk, -, -⟩ := exec_of_advancedBy h hadv hx
      exact hwalk.bulkCursorInWindow (bulkCursorInWindow_advanceCursor hs)
    by_cases hstart : s.RestartedBy i
    · obtain ⟨hcol, hrow, hcs, hrs⟩ := exec_of_restartedBy h hstart hx
      exact bulkCursorInWindow_of_atStart (hcol.trans hcs.symm) (hrow.trans hrs.symm)
    by_cases hreset : i ∈ resetInstrs
    · obtain ⟨hcol, hrow, -, -⟩ := exec_cursor_of_mem_resetInstrs h hreset hx
      exact bulkCursorInWindow_of_atStart hcol hrow
    exact (exec_keepsWalk hadv hstart hreset hx).bulkCursorInWindow hs

/-- Settles O50: a step waits or executes; an execution steps the walk, puts the cursor at the window start, or keeps
the cursor and, unless it leaves the bulk state, the window. -/
theorem bulkCursorStaysInTheWindow : Obligations.BulkCursorStaysInTheWindow := by
  intro s t hs h
  obtain ⟨-, rfl⟩ | ⟨op, rest, i, -, -, hx⟩ := step_cases h
  · exact hs
  · exact exec_bulkCursorInWindow (s := { s with pending := rest }) hs hx

end Sys2Proof.Machine
end

