-- ==== Sys2Proof/Proofs/CoordTransform.lean ====
section
/-! PROOFS. The coordinate transform of 43_coord_transform.md: its inverse (R215), the transformed cursor and its cell
(R210; 45_framebuffer_memory.md R238), and the accesses at a position off the panel (R211; 60_exceptions.md R273). -/

namespace Sys2Proof.Machine

variable {s : State} {W H : Nat} {my mx mv : Bool} {c r : Word}

/-! ### The inverse -/

/-- The column travels in the coordinate `mv` selects, straight or reflected as `mx` says, and a reflection undoes
itself. -/
theorem logicalCol_physX_physY (W H : Nat) (my mx mv : Bool) (col row : Int) :
    logicalCol W H my mx mv (physX W H my mx mv col row) (physY W H my mx mv col row) = col := by
  cases mv <;> cases mx <;> simp [logicalCol, physX, physY]

/-- The row travels in the other coordinate, straight or reflected as `my` says. -/
theorem logicalRow_physX_physY (W H : Nat) (my mx mv : Bool) (col row : Int) :
    logicalRow W H my mx mv (physX W H my mx mv col row) (physY W H my mx mv col row) = row := by
  cases mv <;> cases my <;> simp [logicalRow, physX, physY]

/-- The inverse table recovers the cursor position from a valid panel position. -/
theorem logical_of_transform_eq_some {x y : Nat} (h : transform W H my mx mv c r = some (x, y)) :
    (c.toNat : Int) = logicalCol W H my mx mv x y ∧ (r.toNat : Int) = logicalRow W H my mx mv x y := by
  obtain ⟨hx, hy, -, -⟩ := transform_eq_some.1 h
  rw [← hx, ← hy]
  exact ⟨(logicalCol_physX_physY ..).symm, (logicalRow_physX_physY ..).symm⟩

/-- Settles O28: two cursor positions with one valid panel position are both what the inverse table gives for it. -/
theorem transformHasItsInverse : Obligations.TransformHasItsInverse := by
  constructor
  · exact fun W H my mx mv col row => ⟨logicalCol_physX_physY .., logicalRow_physX_physY ..⟩
  · intro W H my mx mv c r c' r' q h h'
    obtain ⟨hcol, hrow⟩ := logical_of_transform_eq_some h
    obtain ⟨hcol', hrow'⟩ := logical_of_transform_eq_some h'
    exact ⟨BitVec.eq_of_toNat_eq (Int.ofNat.inj (hcol.trans hcol'.symm)),
      BitVec.eq_of_toNat_eq (Int.ofNat.inj (hrow.trans hrow'.symm))⟩

/-! ### The transformed cursor and its cell -/

theorem getAtCursor_of_cursorPosition_some {x y : Nat} (hpos : s.cursorPosition = some (x, y)) :
    s.getAtCursor = s.fbGet x y := by
  simp only [State.getAtCursor, hpos]

theorem getAtCursor_of_cursorPosition_none (hpos : s.cursorPosition = none) : s.getAtCursor = 0 := by
  simp only [State.getAtCursor, hpos]

/-- At an invalid position every lane of the cell is 0. -/
theorem getAtCursor_toNat_of_cursorPosition_none (hpos : s.cursorPosition = none) : s.getAtCursor.toNat = 0 :=
  congrArg BitVec.toNat (getAtCursor_of_cursorPosition_none hpos)

/-- Settles O30: the formulas are the definition arm by arm, and the transformed cursor is the transform of it. -/
theorem cellAtCursorOrZero : Obligations.CellAtCursorOrZero :=
  ⟨fun _ _ _ _ _ _ => ⟨rfl, rfl, rfl, rfl⟩, fun _ _ _ => transform_eq_some,
    fun _ => ⟨fun _ _ => getAtCursor_of_cursorPosition_some, getAtCursor_of_cursorPosition_none⟩⟩

/-! ### Positions off the panel -/

/-- When `Transform` is invalid (R211). -/
theorem transform_eq_none :
    transform W H my mx mv c r = none ↔
      ¬ (0 ≤ physX W H my mx mv c.toNat r.toNat ∧ physX W H my mx mv c.toNat r.toNat < W ∧
        0 ≤ physY W H my mx mv c.toNat r.toNat ∧ physY W H my mx mv c.toNat r.toNat < H) := by
  simp only [transform, ite_eq_right_iff, reduceCtorEq, imp_false]

/-- The second half of a pixel at an invalid position clears the phase and advances (41_protocol_fsm.md R181). -/
theorem exec_dwWriteMemBeats2_of_cursorPosition_none (h : s.fatal = false) (hpos : s.cursorPosition = none)
    (hwr : s.wrPhase = true) (b : Byte) :
    exec (.dwWriteMemBeats2 b) s = .next (((s.shift8 b).setWrPhase false).advanceCursor.reply .quiet) := by
  rw [exec_dwWriteMemBeats2_of_not_fatal h, writeHalf_of_wrPhase_true hwr]
  exact congrArg _ (writePixel_of_cursorPosition_none (s := (s.shift8 b).setWrPhase false) hpos _)

/-- Settles O29: a dropped write is the pixel write's second case; a read packs lanes of cells, and the cell of an
invalid position is 0, so where only one of the two pixels is invalid the other's lane alone is left in the word. -/
theorem invalidPositionIsSkipped : Obligations.InvalidPositionIsSkipped := by
  refine ⟨fun s => transform_eq_none, fun s hpos h => ⟨fun p => ?_, fun b hwr => ?_, fun h18 => ?_⟩,
    fun s hpos h h18 => ?_⟩
  · obtain ⟨-, hdrop⟩ := pixelWriteStoresOrDrops s p h
    exact hdrop hpos
  · exact ⟨_, exec_dwWriteMemBeats2_of_cursorPosition_none h hpos hwr b⟩
  · obtain ⟨hread0, hread1, hread2⟩ := memoryReadSubSteps s h h18
    rw [getAtCursor_toNat_of_cursorPosition_none hpos] at hread0 hread1 hread2
    refine ⟨hread0, ⟨_, ?_, hread1⟩, hread2⟩
    rw [BitVec.toNat_ofNat]
    omega
  · obtain ⟨-, hread1, -⟩ := memoryReadSubSteps s h h18
    rw [getAtCursor_toNat_of_cursorPosition_none hpos] at hread1
    refine ⟨_, hread1, ?_, rfl⟩
    rw [BitVec.toNat_ofNat]
    omega

end Sys2Proof.Machine
end

