-- ==== Sys2Proof/Proofs/PixelCodec.lean ====
section
/-! PROOFS. The pixel codec of 44_pixel_codec.md: the encoder and its left inverse in numbers (R221, R222), the words of
a group of reads (R224, R225), and a pixel written and read back (R225). -/

namespace Sys2Proof.Machine

variable {s t : State}

/-! ### The encoder and its left inverse as numbers -/

/-- Two vectors put together, the first one high, as a number. -/
theorem toNat_append_eq_add {m n : Nat} (a : BitVec m) (b : BitVec n) :
    (a ++ b).toNat = a.toNat * 2 ^ n + b.toNat := by
  rw [BitVec.toNat_append, ← Nat.shiftLeft_add_eq_or_of_lt b.isLt, Nat.shiftLeft_eq]

/-- A field of a pixel shifted up in a lane it fits in: no bit is lost (R221). -/
theorem toNat_extractLsb'_shiftLeft {len k : Nat} (p : Word) (start : Nat) (h : len + k ≤ 8) :
    ((p.extractLsb' start len).setWidth 8 <<< k : Byte).toNat = p.toNat / 2 ^ start % 2 ^ len * 2 ^ k := by
  have hfield : p.toNat / 2 ^ start % 2 ^ len < 2 ^ len := Nat.mod_lt _ (Nat.two_pow_pos len)
  have hlen : 2 ^ len ≤ 2 ^ 8 := Nat.pow_le_pow_right (by decide) (by omega)
  have hlane : p.toNat / 2 ^ start % 2 ^ len * 2 ^ k < 2 ^ 8 :=
    calc p.toNat / 2 ^ start % 2 ^ len * 2 ^ k
      _ < 2 ^ len * 2 ^ k := Nat.mul_lt_mul_of_pos_right hfield (Nat.two_pow_pos k)
      _ = 2 ^ (len + k) := (Nat.pow_add 2 len k).symm
      _ ≤ 2 ^ 8 := Nat.pow_le_pow_right (by decide) h
  rw [BitVec.toNat_shiftLeft, BitVec.toNat_setWidth, BitVec.extractLsb'_toNat, Nat.shiftRight_eq_div_pow,
    Nat.shiftLeft_eq, Nat.mod_eq_of_lt (hfield.trans_le hlen), Nat.mod_eq_of_lt hlane]

/-- `Encode565` as a number: each field at the top of its lane, zero above (R221). -/
theorem encode565_toNat (p : Word) : (encode565 p).toNat =
    (p.toNat / 2048) * 8 * 65536 + (p.toNat / 32 % 64) * 4 * 256 + (p.toNat % 32) * 8 := by
  have hp := p.isLt
  simp only [encode565, toNat_append_eq_add, toNat_extractLsb'_shiftLeft _ _ (show 5 + 3 ≤ 8 by decide),
    toNat_extractLsb'_shiftLeft _ _ (show 6 + 2 ≤ 8 by decide), BitVec.toNat_zero]
  omega

/-! ### The lanes of an encoded pixel -/

theorem laneR_encode565_toNat (p : Word) : (laneR (encode565 p)).toNat = (p.toNat / 2048) * 8 := by
  have hp := p.isLt
  have hred : (p.toNat / 2048) * 8 < 256 := by omega
  have hlow : (p.toNat / 32 % 64) * 4 * 256 + (p.toNat % 32) * 8 < 65536 := by omega
  rw [laneR_toNat, encode565_toNat, Nat.add_assoc, Nat.add_comm, Nat.add_mul_div_right _ _ (by decide),
    Nat.div_eq_of_lt hlow, Nat.zero_add, Nat.mod_eq_of_lt hred]

theorem laneG_encode565_toNat (p : Word) : (laneG (encode565 p)).toNat = (p.toNat / 32 % 64) * 4 := by
  rw [laneG_toNat, encode565_toNat]
  omega

theorem laneB_encode565_toNat (p : Word) : (laneB (encode565 p)).toNat = (p.toNat % 32) * 8 := by
  rw [laneB_toNat, encode565_toNat]
  omega

/-! ### The left inverse and the image, in lanes -/

/-- `Decode565` takes the field at the top of each lane (R222). -/
theorem decode565_toNat (c : Cell) : (decode565 c).toNat =
    (laneR c).toNat / 8 * 2048 + (laneG c).toNat / 4 * 32 + (laneB c).toNat / 8 := by
  simp only [decode565, laneR_toNat, laneG_toNat, laneB_toNat, toNat_append_eq_add, BitVec.extractLsb'_toNat,
    Nat.shiftRight_eq_div_pow]
  omega

/-- A cell is its unused byte and its three lanes (R223). -/
theorem cell_toNat_eq (c : Cell) : c.toNat =
    c.toNat / 16777216 * 16777216 + (laneR c).toNat * 65536 + (laneG c).toNat * 256 + (laneB c).toNat := by
  rw [laneR_toNat, laneG_toNat, laneB_toNat]
  omega

/-- The listed bits of R222 are the unused byte and the low bits of each lane. -/
theorem isEncoded_iff (c : Cell) : isEncoded c = true ↔
    c.toNat / 16777216 = 0 ∧ (laneR c).toNat % 8 = 0 ∧ (laneG c).toNat % 4 = 0 ∧ (laneB c).toNat % 8 = 0 := by
  have hc := c.isLt
  simp only [isEncoded, Bool.and_eq_true, decide_eq_true_eq, and_assoc, ← BitVec.toNat_inj, BitVec.extractLsb'_toNat,
    Nat.shiftRight_eq_div_pow, BitVec.ofNat_eq_ofNat, BitVec.toNat_ofNat, laneR_toNat, laneG_toNat, laneB_toNat]
  omega

theorem decode565_encode565 (p : Word) : decode565 (encode565 p) = p := by
  apply BitVec.eq_of_toNat_eq
  rw [decode565_toNat, laneR_encode565_toNat, laneG_encode565_toNat, laneB_encode565_toNat]
  omega

/-- On its own image `Encode565` undoes `Decode565` (R222). -/
theorem encode565_decode565 {c : Cell} (h : isEncoded c = true) : encode565 (decode565 c) = c := by
  obtain ⟨htop, hr, hg, hb⟩ := (isEncoded_iff c).1 h
  apply BitVec.eq_of_toNat_eq
  rw [encode565_toNat, decode565_toNat, cell_toNat_eq c]
  omega

/-- Settles O17: the two functions as numbers are each other's inverse between the wire pixels and the cells with the
listed bits 0. -/
theorem pixelEncodingLaws : Obligations.PixelEncodingLaws := by
  refine ⟨encode565_toNat, decode565_encode565, fun c => ⟨fun h => ⟨_, encode565_decode565 h⟩, ?_⟩⟩
  rintro ⟨p, rfl⟩
  exact isEncoded_encode565 p

/-! ### A group of three reads -/

/-- Unpacking the words of a group gives the lanes of its two pixels; the first word holds nothing of pixel B, the third
nothing of pixel A (R224, R225). -/
theorem unpackGroup_packRead (a n a' n' : Cell) :
    unpackGroup (packRead .r0 a n') (packRead .r1 a n) (packRead .r2 a' n) =
      ((laneR a, laneG a, laneB a), (laneR n, laneG n, laneB n)) := by
  simp only [unpackGroup, packRead, BitVec.extractLsb'_append_eq_left, BitVec.extractLsb'_append_eq_right]

/-- In the 18-bit format while `fatal = 0` the sub-steps run. -/
theorem exec_drReadMem0_of_format18 (h : s.fatal = false) (h18 : s.controlFormat = format18) :
    exec .drReadMem0 s = .next s.readStep0 :=
  (exec_drReadMem0_of_not_fatal h).trans (congrArg _ (ifFormat18_of_eq _ h18))

theorem exec_drReadMem1_of_format18 (h : s.fatal = false) (h18 : s.controlFormat = format18) :
    exec .drReadMem1 s = .next s.readStep1 :=
  (exec_drReadMem1_of_not_fatal h).trans (congrArg _ (ifFormat18_of_eq _ h18))

theorem exec_drReadMem2_of_format18 (h : s.fatal = false) (h18 : s.controlFormat = format18) :
    exec .drReadMem2 s = .next s.readStep2 :=
  (exec_drReadMem2_of_not_fatal h).trans (congrArg _ (ifFormat18_of_eq _ h18))

/-- Settles O22: each sub-step runs in the state the one before leaves, where cells, orientation and format are still
those of `s`, and the words of the three are a packed group. -/
theorem readGroupDeliversTwoPixels : Obligations.ReadGroupDeliversTwoPixels := by
  intro s h h18
  refine ⟨s.readStep0, s.readStep0.readStep1, s.readStep0.readStep1.readStep2, ?_, ?_, ?_, ?_, rfl⟩
  · exact exec_drReadMem0_of_format18 h h18
  · exact exec_drReadMem1_of_format18 (s := s.readStep0) h h18
  · exact exec_drReadMem2_of_format18 (s := s.readStep0.readStep1) h h18
  · exact unpackGroup_packRead s.getAtCursor s.advanceCursor.getAtCursor 0 0

/-! ### A pixel written and read back -/

theorem execAll_cons_of_exec {i : Instr} (h : exec i s = .next t) (is : List Instr) :
    execAll (i :: is) s = execAll is t := by
  simp only [execAll, h]

/-- `RAMWR` and one pixel store the encoded pixel in the cell of the window start, and move neither the window nor the
format (R144, R180). -/
theorem execAll_ramwr_dwWriteMem {x y : Nat} (h : s.fatal = false)
    (hstart : s.cursorToStart.cursorPosition = some (x, y)) (p : Word) :
    ∃ t, (∀ is, execAll (.ramwr :: .dwWriteMem p :: is) s = execAll is t) ∧ t.fatal = false ∧
      t.controlFormat = s.controlFormat ∧ t.cursorToStart.cursorPosition = some (x, y) ∧
      t.fbGet x y = encode565 p := by
  have hramwr : exec .ramwr s = .next ((s.cursorToStart.setWrPhase false).arm .writeMem) := memoryWriteCommandArms s h
  obtain ⟨hstore, -⟩ := pixelWriteStoresOrDrops ((s.cursorToStart.setWrPhase false).arm .writeMem) p h
  obtain ⟨t, hwrite, ht, hcell, -⟩ := hstore x y hstart
  refine ⟨t, fun is => ?_, ?_, ?_, ?_, hcell⟩
  · rw [execAll_cons_of_exec hramwr, execAll_cons_of_exec hwrite]
  · rw [ht]; exact h
  · rw [ht]; rfl
  · rw [ht]; exact hstart

/-- An accepted `RAMRD` puts the cell of the window start at the cursor, and memory reads stay accepted (R145). -/
theorem exec_ramrd_getAtCursor {x y : Nat} (h : s.fatal = false) (h18 : s.controlFormat = format18)
    (hstart : s.cursorToStart.cursorPosition = some (x, y)) :
    ∃ t, exec .ramrd s = .next t ∧ t.fatal = false ∧ t.controlFormat = format18 ∧ t.getAtCursor = s.fbGet x y := by
  refine ⟨(s.cursorToStart.setRdSub .r0).arm .readMem, ?_, h, h18, ?_⟩
  · rw [exec_ramrd_of_not_fatal h, ifFormat18_of_eq _ h18]
  · exact getAtCursor_of_cursorPosition_some (s := (s.cursorToStart.setRdSub .r0).arm .readMem) hstart

/-- Settles O23: sub-steps 0 and 1 pack the lanes of the encoded pixel, and the other byte of the second word lies below
its 256. -/
theorem writtenPixelReadsBack : Obligations.WrittenPixelReadsBack := by
  intro s p x y h h18 hstart
  obtain ⟨v, hwrite, hv, hv18, hvstart, hvcell⟩ := execAll_ramwr_dwWriteMem h hstart p
  obtain ⟨t, hramrd, ht, ht18, htcell⟩ := exec_ramrd_getAtCursor hv (hv18.trans h18) hvstart
  have hcell : t.getAtCursor = encode565 p := htcell.trans hvcell
  have hread0 : exec .drReadMem0 t = .next t.readStep0 := exec_drReadMem0_of_format18 ht ht18
  have hblue : (laneB t.getAtCursor).toNat = (p.toNat % 32) * 8 := by rw [hcell, laneB_encode565_toNat]
  refine ⟨t.readStep0, t.readStep0.readStep1, ?_,
    exec_drReadMem1_of_format18 (s := t.readStep0) ht ht18, ?_, ?_⟩
  · rw [hwrite, execAll_cons_of_exec hramrd, execAll_cons_of_exec hread0, execAll]
  · calc t.readStep0.result.rdata.toNat
      _ = (laneR t.getAtCursor).toNat * 256 + (laneG t.getAtCursor).toNat := toNat_append_byte _ _
      _ = _ := by rw [hcell, laneR_encode565_toNat, laneG_encode565_toNat]
  · have hword : t.readStep0.readStep1.result.rdata.toNat =
        (laneB t.getAtCursor).toNat * 256 + (laneR t.advanceCursor.getAtCursor).toNat := toNat_append_byte _ _
    have hred := (laneR t.advanceCursor.getAtCursor).isLt
    omega

end Sys2Proof.Machine
end

