-- ==== Sys2Proof/Proofs/TopLevel.lean ====
section
/-! PROOFS. The top level of 46_display_ctrl_top.md: the decoded operation of a step (R252), power-on (R255) and the
paint with its surface (R258; 45_framebuffer_memory.md R239). -/

namespace Sys2Proof.Machine

variable {s : State}

/-! ### The step and power-on -/

/-- Settles O35: the second arm of the step, where the decoder answers an instruction. -/
theorem stepRunsTheDecodedInstruction : Obligations.StepRunsTheDecodedInstruction :=
  fun _ _ _ _ => step_of_decode

/-- The orientation is cleared before the registers are reset, so the default window is the straight one (R303). -/
theorem powerOnReset_eq_afterPowerOn (s : State) :
    s.powerOnReset =
      { State.afterPowerOn s.cfg with pending := s.pending, draws := s.draws, powerOns := s.powerOns + 1 } := rfl

/-- Settles O2: no gate stands before `POWER_ON`, and its reset gives the state after power-on. -/
theorem powerOnFromAnyState : Obligations.PowerOnFromAnyState :=
  fun s => congrArg Host.Outcome.next (powerOnReset_eq_afterPowerOn s)

/-! ### The paint -/

theorem bulkCopy_of_not_rotate (h : s.cfg.rotate = false) :
    s.bulkCopy = Surface.build s.cfg.W s.cfg.H fun sx sy => (s.fbGet sx sy).setWidth 24 := by
  simp [State.bulkCopy, h]

theorem bulkCopy_of_rotate (h : s.cfg.rotate = true) :
    s.bulkCopy = Surface.build s.cfg.H s.cfg.W fun sx sy => (s.fbGet sy sx).setWidth 24 := by
  simp [State.bulkCopy, h]

theorem bulkCopy_length (s : State) : s.bulkCopy.pixels.length = s.bulkCopy.width * s.bulkCopy.height := by
  cases h : s.cfg.rotate
  · rw [bulkCopy_of_not_rotate h]
    exact Surface.build_length s.cfg.W s.cfg.H _
  · rw [bulkCopy_of_rotate h]
    exact Surface.build_length s.cfg.H s.cfg.W _

/-- Settles O33: the paint replies with the copy of the framebuffer, which is a built surface in either rotation. -/
theorem paintCopiesTheWholeFramebuffer : Obligations.PaintCopiesTheWholeFramebuffer := by
  intro s h
  refine ⟨s.bulkCopy, exec_eq_next_of_unlessFatal h, bulkCopy_length s, ?_, ?_⟩
  · intro hrot
    rw [bulkCopy_of_not_rotate hrot]
    exact ⟨rfl, rfl, fun _ _ => Surface.build_getElem? s.cfg.W s.cfg.H _⟩
  · intro hrot
    rw [bulkCopy_of_rotate hrot]
    exact ⟨rfl, rfl, fun _ _ => Surface.build_getElem? s.cfg.H s.cfg.W _⟩

end Sys2Proof.Machine
end

