-- ==== Sys2Proof/Proofs/Exceptions.lean ====
section
/-! PROOFS. The exceptions of 60_exceptions.md: what an instruction can raise or report, said once (R271 to R275), the
operations behind the fatal fault (R275), the refusals after it (R276) and the one way out of it (R281). -/

namespace Sys2Proof

variable {cfg : Config} {ps : PState} {rs : RdSub}

/-- The instructions that check the pixel format, and are fatal where it is not the 18-bit one (40_cmd_dispatcher.md
R145, 41_protocol_fsm.md R182). -/
def formatCheckers : List Instr := [.ramrd, .drReadMem0, .drReadMem1, .drReadMem2]

/-- The one command that checks the format is memory-read. -/
theorem eq_of_decodeCommand_mem_formatCheckers {c : Byte} (h : decodeCommand c ∈ formatCheckers) : c = 0x2E := by
  have table : ∀ r ∈ commandTable, r.2 ∈ formatCheckers → r.1 = 0x2E := by decide
  rcases decodeCommand_cases c with hrow | hunknown
  · exact table _ hrow h
  · simp [hunknown, formatCheckers] at h

theorem decodeDataWrite_notMem_formatCheckers (beats : PixelBeats) (w : Word) (ps : PState) :
    decodeDataWrite beats w ps ∉ formatCheckers := by
  fun_cases decodeDataWrite beats w ps <;> simp [formatCheckers]

/-- A data read checks the format in `READ_MEM` only. -/
theorem pstate_of_decodeDataRead_mem_formatCheckers (h : decodeDataRead rs ps ∈ formatCheckers) : ps = .readMem := by
  cases ps with
  | readMem => rfl
  | read q k => cases q <;> cases k <;> simp [decodeDataRead, formatCheckers] at h
  | _ => simp [decodeDataRead, formatCheckers] at h

/-- An operation that checks the format is the memory-read command, or comes in `READ_MEM`. -/
theorem op_of_decode_mem_formatCheckers {op : Operation} {i : Instr} (h : decode cfg ps rs op = .ok i)
    (hi : i ∈ formatCheckers) : (∃ w, op = .bus cfg.offCmd true w ∧ paramByte w = 0x2E) ∨ ps = .readMem := by
  rcases decode_cases h with ⟨w, hop, rfl⟩ | ⟨w, -, rfl⟩ | ⟨w, -, rfl⟩ | ⟨_, _, _, -, -, -, -, rfl⟩ |
    ⟨-, rfl⟩ | ⟨-, rfl⟩ | ⟨-, rfl⟩
  · exact .inl ⟨w, hop, eq_of_decodeCommand_mem_formatCheckers hi⟩
  · exact absurd hi (decodeDataWrite_notMem_formatCheckers _ w ps)
  · exact .inr (pstate_of_decodeDataRead_mem_formatCheckers hi)
  all_goals simp [formatCheckers] at hi

/-- An operation decodes to `POWER_ON` only if it is that. -/
theorem op_of_decode_powerOn {op : Operation} (h : decode cfg ps rs op = .ok .powerOn) : op = .powerOn := by
  obtain ⟨-, -, hne⟩ | hop := op_of_decode_changesCells h (.inr (.inr rfl))
  · exact absurd rfl hne
  · exact hop

end Sys2Proof

namespace Sys2Proof.Machine

variable {s t : State} {i : Instr}

/-! ### What an instruction can raise or report -/

/-- While `fatal = 0` an instruction whose meaning is an effect behind the gate ends in the effect's state. That `f` is
its effect is read off the model's definitions. -/
theorem eq_of_exec_eq_unlessFatal {f : State → State} (h : s.fatal = false) (hx : exec i s = .next t)
    (hi : exec i s = s.unlessFatal f := by rfl) : t = f s :=
  Host.Outcome.next.inj (hx.symm.trans (exec_eq_next_of_unlessFatal h hi))

/-- What an execution can raise or report: no fatal fault and no diagnostic, a diagnostic and nothing else (R272), or
the fatal fault of a format check and nothing else (R275). -/
def ExceptionOutcome (i : Instr) (s t : State) : Prop :=
  (t.fatal = false ∧ t.result.diag = .none) ∨ (∃ d, t = s.reply (.diagnose d)) ∨
    (i ∈ formatCheckers ∧ s.controlFormat ≠ format18 ∧ t = s.raiseFatal)

/-- A format checker whose own effect raises and reports nothing. -/
theorem ExceptionOutcome.of_ifFormat18 {f : State → State} (hi : i ∈ formatCheckers) (hfatal : (f s).fatal = false)
    (hdiag : (f s).result.diag = .none) : ExceptionOutcome i s (s.ifFormat18 f) := by
  obtain ⟨-, hf⟩ | ⟨h18, hf⟩ := ifFormat18_cases s f
  · rw [hf]
    exact .inl ⟨hfatal, hdiag⟩
  · exact .inr (.inr ⟨hi, h18, hf⟩)

/-- Everything an instruction can raise or report while `fatal = 0`. -/
theorem exec_exceptionOutcome (h : s.fatal = false) (hx : exec i s = .next t) : ExceptionOutcome i s t := by
  cases i
  case powerOn =>
    cases hx
    exact .inl ⟨rfl, rfl⟩
  case dwWriteMem p => exact .inl (exec_of_advancedBy h (.inl ⟨p, rfl⟩) hx).2
  case dwWriteMemBeats2 b =>
    cases hwr : s.wrPhase with
    | true => exact .inl (exec_of_advancedBy h (.inr (.inl ⟨⟨b, rfl⟩, hwr⟩)) hx).2
    | false =>
      rw [exec_dwWriteMemBeats2_of_not_fatal h, writeHalf_of_wrPhase_false hwr] at hx
      cases hx
      exact .inl ⟨h, rfl⟩
  case ramrd | drReadMem0 | drReadMem1 | drReadMem2 =>
    obtain rfl := eq_of_exec_eq_unlessFatal h hx
    exact .of_ifFormat18 (by simp [formatCheckers]) h rfl
  case unknownCmd | dwIgnored | drIgnored | unmapped =>
    exact .inr (.inl ⟨_, eq_of_exec_eq_unlessFatal h hx⟩)
  -- what remains writes registers and replies, without a choice
  all_goals
    obtain rfl := eq_of_exec_eq_unlessFatal h hx
    exact .inl ⟨h, rfl⟩

/-- An instruction that reports a diagnostic only replies with it. -/
theorem eq_reply_of_diag_ne_none (hx : exec i s = .next t) (hdiag : t.result.diag ≠ .none) :
    t = s.reply (.diagnose t.result.diag) := by
  cases h : s.fatal with
  | false =>
    obtain ⟨-, hnone⟩ | ⟨d, rfl⟩ | ⟨-, -, rfl⟩ := exec_exceptionOutcome h hx
    · exact absurd hnone hdiag
    · rfl
    · exact absurd rfl hdiag
  | true =>
    by_cases hi : i = .powerOn
    · subst hi
      cases hx
      exact absurd rfl hdiag
    · obtain rfl := Host.Outcome.next.inj ((exec_of_fatal h hi).symm.trans hx)
      exact absurd rfl hdiag

/-- An instruction that raises the fatal fault is a format check that failed. -/
theorem failedCheck_of_exec_raises_fatal (h : s.fatal = false) (hx : exec i s = .next t) (hfatal : t.fatal = true) :
    i ∈ formatCheckers ∧ s.controlFormat ≠ format18 := by
  obtain ⟨hclear, -⟩ | ⟨d, rfl⟩ | ⟨hi, h18, -⟩ := exec_exceptionOutcome h hx
  · simp [hclear] at hfatal
  · simp [h] at hfatal
  · exact ⟨hi, h18⟩

/-- An instruction that leaves a fatal state is `POWER_ON`. -/
theorem eq_powerOn_of_exec_clears_fatal (h : s.fatal = true) (hx : exec i s = .next t) (hclear : t.fatal = false) :
    i = .powerOn := by
  by_contra hi
  obtain rfl := Host.Outcome.next.inj ((exec_of_fatal h hi).symm.trans hx)
  simp [h] at hclear

/-! ### The obligations -/

/-- Settles O34: the gate stands before every meaning but that of `POWER_ON`. -/
theorem everythingIsRefusedWhileFatal : Obligations.EverythingIsRefusedWhileFatal :=
  fun _ _ hi h => exec_of_fatal h hi

/-- Settles O41: the step executes the decoded operation, and the execution only replies. -/
theorem diagnosticsChangeNothing : Obligations.DiagnosticsChangeNothing := by
  intro s t op rest hp h hdiag
  obtain ⟨hnil, -⟩ | ⟨op', rest', i, hp', -, hx⟩ := step_cases h
  · simp [hp] at hnil
  · obtain ⟨-, rfl⟩ := List.cons.inj (hp.symm.trans hp')
    exact eq_reply_of_diag_ne_none hx hdiag

/-- Settles O42: the execution is a failed format check, which the invariant excludes in `READ_MEM`, and the memory-read
command is the only one elsewhere. -/
theorem fatalIsRaisedOnlyByMemoryRead : Obligations.FatalIsRaisedOnlyByMemoryRead := by
  intro s t hs hclear h hfatal
  obtain ⟨-, rfl⟩ | ⟨op, rest, i, hp, hd, hx⟩ := step_cases h
  · simp [hclear] at hfatal
  · obtain ⟨hi, h18⟩ := failedCheck_of_exec_raises_fatal (s := { s with pending := rest }) hclear hx hfatal
    obtain ⟨w, rfl, hbyte⟩ | hread := op_of_decode_mem_formatCheckers hd hi
    · exact ⟨h18, w, rest, hp, by simpa [paramByte_eq_ofNat] using congrArg BitVec.toNat hbyte⟩
    · exact absurd (hs.readFormat hread) h18

/-- Settles O43: a step from a fatal state that does not stay in it executes `POWER_ON`, to which only the operation
of that name decodes. -/
theorem onlyPowerOnClearsFatal : Obligations.OnlyPowerOnClearsFatal := by
  intro s t hfatal h hclear
  obtain ⟨-, rfl⟩ | ⟨op, rest, i, hp, hd, hx⟩ := step_cases h
  · simp [hfatal] at hclear
  · obtain rfl := eq_powerOn_of_exec_clears_fatal (s := { s with pending := rest }) hfatal hx hclear
    obtain rfl := op_of_decode_powerOn hd
    exact ⟨rest, hp⟩

end Sys2Proof.Machine
end

