-- ==== Sys2Proof/Proofs/Reset.lean ====
section
/-! PROOFS. The reset procedure of 70_reset_and_hazards.md: the registers it initialises (R301, R302) and the window
shape it establishes (R303). -/

namespace Sys2Proof.Machine

variable {s : State}

/-! ### The window shape -/

/-- The last index of an axis that fits the 16-bit window registers (00_scope.md R6). -/
theorem toNat_ofNat_pred {n : Nat} (h : n ≤ 65536) : (BitVec.ofNat 16 (n - 1)).toNat = n - 1 := by
  rw [BitVec.toNat_ofNat]
  omega

theorem panel_le_of_wf {cfg : Config} (h : cfg.wf = true) : cfg.W ≤ 65536 ∧ cfg.H ≤ 65536 := by
  simp only [Config.wf, Bool.and_eq_true, decide_eq_true_eq] at h
  obtain ⟨⟨⟨-, hW⟩, -, hH⟩, -⟩ := h
  exact ⟨hW, hH⟩

/-- The window is the whole panel, its ends exchanged with `MV` (R303). -/
def State.WindowMatchesMV (t : State) : Prop :=
  t.colStart.toNat = 0 ∧ t.rowStart.toNat = 0 ∧
    (t.mv = false → t.colEnd.toNat = t.cfg.W - 1 ∧ t.rowEnd.toNat = t.cfg.H - 1) ∧
    (t.mv = true → t.colEnd.toNat = t.cfg.H - 1 ∧ t.rowEnd.toNat = t.cfg.W - 1)

/-- A reset of the registers establishes the shape; on a legal panel its ends fit their registers. -/
theorem resetRegisters_windowMatchesMV (hcfg : s.cfg.wf = true) : s.resetRegisters.WindowMatchesMV := by
  obtain ⟨hW, hH⟩ := panel_le_of_wf hcfg
  refine ⟨rfl, rfl, fun hmv => ?_, fun hmv => ?_⟩ <;> rw [State.resetRegisters_mv] at hmv
  · simp [hmv, toNat_ofNat_pred hW, toNat_ofNat_pred hH]
  · simp [hmv, toNat_ofNat_pred hW, toNat_ofNat_pred hH]

/-- `POWER_ON` resets the registers in the straight orientation (46_display_ctrl_top.md R255). -/
theorem powerOnReset_windowMatchesMV (hcfg : s.cfg.wf = true) : s.powerOnReset.WindowMatchesMV :=
  resetRegisters_windowMatchesMV (s := { s with my := false, mx := false, mv := false }) hcfg

/-- A `MADCTL` byte, refused or not, leaves the window alone (R303). -/
theorem exec_dwMadctl0_window {t : State} {b : Byte} (hx : exec (.dwMadctl0 b) s = .next t) :
    t.colStart = s.colStart ∧ t.colEnd = s.colEnd ∧ t.rowStart = s.rowStart ∧ t.rowEnd = s.rowEnd := by
  dsimp only [exec] at hx
  obtain ⟨-, rfl⟩ | ⟨-, rfl⟩ := unlessFatal_cases hx
  · exact ⟨rfl, rfl, rfl, rfl⟩
  · exact ⟨rfl, rfl, rfl, rfl⟩

/-! ### The obligations -/

/-- Settles O4: the command and the signal reset the registers behind the gate, `POWER_ON` resets them in the straight
orientation, and a `MADCTL` byte loads the orientation only. -/
theorem defaultWindowMatchesRowExchange : Obligations.DefaultWindowMatchesRowExchange := by
  constructor
  · intro s hcfg h i hi
    have hreset : (s.resetRegisters.reply .quiet).WindowMatchesMV := resetRegisters_windowMatchesMV hcfg
    obtain ⟨hcol, hrow, hstraight, hexchanged⟩ := hreset
    fin_cases hi
    · exact ⟨_, exec_eq_next_of_unlessFatal h, hcol, hrow, hstraight, hexchanged, nofun⟩
    · exact ⟨_, exec_eq_next_of_unlessFatal h, hcol, hrow, hstraight, hexchanged, nofun⟩
    · obtain ⟨hcol, hrow, hstraight, hexchanged⟩ := powerOnReset_windowMatchesMV hcfg
      exact ⟨_, rfl, hcol, hrow, hstraight, hexchanged, fun _ => rfl⟩
  · intro s b
    obtain ⟨t, hx⟩ := exists_exec_eq_next (.dwMadctl0 b) s
    exact ⟨t, hx, exec_dwMadctl0_window hx⟩

/-- Settles O3: the command and the signal have one effect behind the gate, the reset procedure and the quiet reply. -/
theorem resetReinitialisesRegisters : Obligations.ResetReinitialisesRegisters := by
  intro s h i hi
  fin_cases hi
  · exact exec_eq_next_of_unlessFatal h
  · exact exec_eq_next_of_unlessFatal h

end Sys2Proof.Machine
end
